-- ==== Sys2Proof/Word.lean ====
section
/-! DEFINITION. The widths the spec fixes (00_scope.md R6) and the byte sequences of R9. -/

namespace Sys2Proof

/-- `u8`, a byte (R6). -/
abbrev Byte := BitVec 8

/-- `u16`: the CRC accumulator, `init` and the CRC result (R6). -/
abbrev Word := BitVec 16

/-- `s16`: a 16-bit two's-complement number (R6, R8); its integer value is `signed16` (R10). -/
abbrev S16 := BitVec 16

/-- A byte sequence: a finite list of u8, byte `i` at 0-based index `i` (R9). -/
abbrev Bytes := List Byte

end Sys2Proof
end

