-- ==== Sys2Proof/Machine/Operands.lean ====
section
/-! DEFINITION. Operand forms: clamping, serialization of payload arguments, and the little-endian reading of telemetry
fields (00_scope.md R10; 42_param_commands.md R130 to R132; 43_telemetry.md R171). -/

namespace Sys2Proof.Machine

/-- `v[7:0]` of a u16. -/
def lowByte (w : Word) : Byte := w.extractLsb' 0 8

/-- `v[15:8]` of a u16. -/
def highByte (w : Word) : Byte := w.extractLsb' 8 8

/-- `byte(v) = v mod 256` (R10). -/
def byteOf (v : Int) : Byte := BitVec.ofNat 8 (v % 256).toNat

/-- `signed16(u)` (R10): the integer a 16-bit two's-complement value stands for. -/
def signed16 (u : Word) : Int := if u.toNat < 0x8000 then (u.toNat : Int) else (u.toNat : Int) - 0x10000

/-- `clamp(v, lo, hi) = min(max(v, lo), hi)` over the integers (R130). -/
def clamp (v lo hi : Int) : Int := min (max v lo) hi

/-- `ser1(v)`: one byte, `v mod 256` (R131). -/
def ser1 (v : Int) : Bytes := [byteOf v]

/-- `ser_be(v, n)`: the n-byte big-endian two's-complement encoding of `v` (R132, 20_memory.md R43). -/
def serBe (v : Int) (n : Nat) : Bytes :=
  (List.range n).map fun j => BitVec.ofNat 8 ((v % (2 ^ (8 * n) : Nat)).toNat >>> (8 * (n - 1 - j)))

/-- One payload field of `n` bytes: `ser1` for a one-byte field, `ser_be` for a multi-byte field (30_encoding.md R72). -/
def serField (v : Int) (n : Nat) : Bytes := if n = 1 then ser1 v else serBe v n

/-- The range a field with no stated range is saturated to: that of its serialized width, `[0, 2^(8n) - 1]`
(42_param_commands.md R140, D4). -/
def clampToWidth (v : Int) (n : Nat) : Int := clamp v 0 ((2 ^ (8 * n) : Nat) - 1)

/-- `le_s16(b0, b1)`: `b0` is the low byte (R171, 20_memory.md R44). Its integer value is `signed16` of it. -/
def leS16 (b0 b1 : Byte) : S16 := b0.setWidth 16 ||| (b1.setWidth 16 <<< 8)

/-- `MemRead(buf, i, 1)`: byte `i` of a buffer (00_scope.md R11). Every index the block forms lies inside its buffer
(20_memory.md R41), so `none` stands for an access that never happens. -/
def memRead (buf : Bytes) (i : Nat) : Option Byte := buf[i]?

/-- `MemWrite(OUT, i, 1, v)`: byte `i` of the output buffer becomes `v`. The block writes 0, 1, 2, … in order
(20_memory.md R41), so `i` is at most the buffer's length. -/
def memWrite (buf : Bytes) (i : Nat) (v : Byte) : Bytes := buf.take i ++ v :: buf.drop (i + 1)

end Sys2Proof.Machine
end

