-- ==== Sys2Proof/Machine/Frame.lean ====
section
/-! DEFINITION. The command frame: its layout (30_encoding.md R60 to R66), WF_FRAME (R67), BUILD_FRAME
(42_param_commands.md R133). -/

namespace Sys2Proof.Machine

/-- The checksum field: low byte, then high byte (20_memory.md R42, 30_encoding.md R66). -/
def checksumBytes (c : Word) : Bytes := [lowByte c, highByte c]

/-- Steps 1 to 5 of BUILD_FRAME (R133): sync header and version byte, DATA_LEN, three reserved bytes, CMD_ID, payload.
DATA_LEN is one byte; a payload is at most 255 bytes (R62). -/
def framePrefix (cmdId : Byte) (payload : Bytes) : Bytes :=
  [0x55, 0x66, 0x01] ++ [BitVec.ofNat 8 payload.length] ++ [0x00, 0x00, 0x00] ++ [cmdId] ++ payload

/-- `p ++ [c & 0xFF, c >> 8]` with `c = CRC16(p, 0)`: step 6 of BUILD_FRAME (R133), always with init 0 (R104). -/
def withChecksum (rom : RomCrc) (p : Bytes) : Bytes := p ++ checksumBytes (crc16 rom p 0)

/-- `BUILD_FRAME(cmd_id, payload)` (R133). -/
def buildFrame (rom : RomCrc) (cmdId : Byte) (payload : Bytes) : Bytes := withChecksum rom (framePrefix cmdId payload)

/-- `WF_FRAME(f)` (R67), clause by clause. Its CRC16 reads the constant ROM_CRC of R21 (R22). -/
def wfFrame (f : Bytes) : Bool :=
  decide (10 ≤ f.length)
    && f[0]? == some 0x55 && f[1]? == some 0x66 && f[2]? == some 0x01
    && f[3]?.map (fun n => 10 + n.toNat) == some f.length
    && f[4]? == some 0x00 && f[5]? == some 0x00 && f[6]? == some 0x00
    && f[f.length - 2]? == some (lowByte (crc16 romCrcTable (f.take (f.length - 2)) 0))
    && f[f.length - 1]? == some (highByte (crc16 romCrcTable (f.take (f.length - 2)) 0))

end Sys2Proof.Machine
end

