-- ==== Sys2Proof/Syntax.lean ====
section
/-! DEFINITION. The requests of the block (30_encoding.md R69, R70): one constructor for each row of spec/opcode_table.json.
Operands are values (R69); numeric command arguments are mathematical integers (42_param_commands.md R140, D4), a fixed
ordinal is a natural number (R70). -/

namespace Sys2Proof

/-- A request with its operands. -/
inductive Instr where
  /-- `crc16(data, init)` (40_checksum.md R100). -/
  | crc16 (data : Bytes) (init : Word)
  /-- `encode(Fixed(k))` (41_fixed_commands.md R120). -/
  | encodeFixed (k : Nat)
  /-- `encode(SetYawPitchSpeed(yaw, pitch))` (42_param_commands.md R134). -/
  | encodeSetYawPitchSpeed (yaw pitch : Int)
  /-- `encode(SetYawPitchAngle(yaw, pitch))` (R135). -/
  | encodeSetYawPitchAngle (yaw pitch : Int)
  /-- `encode(SetUtcTime(timestamp))` (R136). -/
  | encodeSetUtcTime (timestamp : Int)
  /-- `encode(GetCodecSpec(stream))` (R137). -/
  | encodeGetCodecSpec (stream : Int)
  /-- `encode(SetCodecSpec(stream, enc_type, width, height, bitrate))` (R138). -/
  | encodeSetCodecSpec (stream encType width height bitrate : Int)
  /-- `decode_attitude(data)` (43_telemetry.md R172). -/
  | decodeAttitude (data : Bytes)
  deriving DecidableEq, Repr

end Sys2Proof
end

