-- ==== Sys2Proof/Config.lean ====
section
/-! DEFINITION. The parameters of 00_scope.md R7. OPEN parameters are opaque constants with no value; decided ones have
the spec's value. -/

namespace Sys2Proof

/-- `ATT_LONG_INPUT` (R7, D8): what DECODE_ATTITUDE does with more than 12 bytes. -/
inductive AttLongInput where
  /-- `reject`: MALFORMED_REPLY. -/
  | reject
  /-- `prefix`: bytes 0 to 11 are decoded and the rest ignored. -/
  | firstTwelve
  deriving DecidableEq, Repr, Inhabited

/-- The five arguments of Set codec spec (42_param_commands.md R138). -/
inductive CodecArg where
  | stream
  | encType
  | width
  | height
  | bitrate
  deriving DecidableEq, Repr

/-- One field of the Set-codec-spec payload: which argument, and how many bytes it takes. -/
structure CodecField where
  arg : CodecArg
  bytes : Nat
  deriving DecidableEq, Repr

/-- `CODEC_SET_LAYOUT` (R7): field order and widths of the Set-codec-spec payload. -/
abbrev CodecLayout := List CodecField

/-- How many payload bytes a layout takes: the frame's DATA_LEN. -/
def CodecLayout.dataLen (l : CodecLayout) : Nat := (l.map CodecField.bytes).sum

/-- A layout that makes a payload: each of the five arguments once, no field empty, and at most 255 bytes
(30_encoding.md R62). -/
def CodecLayout.wf (l : CodecLayout) : Bool :=
  l.length == 5
    && [CodecArg.stream, .encType, .width, .height, .bitrate].all (fun a => l.any (fun f => f.arg == a))
    && l.all (fun f => decide (1 ≤ f.bytes))
    && decide (CodecLayout.dataLen l ≤ 255)

/-- The decided default (D5): stream u8, encoder type u8, width, height and bitrate big-endian u16; 8 bytes. -/
def CodecLayout.default : CodecLayout :=
  [⟨.stream, 1⟩, ⟨.encType, 1⟩, ⟨.width, 2⟩, ⟨.height, 2⟩, ⟨.bitrate, 2⟩]

/-- The parameters of R7 that an operation of the block reads, other than the two ROMs. -/
structure Config where
  /-- `CMD_ID_SET_UTC_TIME`. -/
  cmdIdSetUtcTime : Byte
  /-- `CMD_ID_GET_CODEC_SPEC`. -/
  cmdIdGetCodecSpec : Byte
  /-- `CMD_ID_SET_CODEC_SPEC`. -/
  cmdIdSetCodecSpec : Byte
  /-- `CODEC_SET_LAYOUT`. -/
  codecSetLayout : CodecLayout
  /-- `ATT_LONG_INPUT`. -/
  attLongInput : AttLongInput
  /-- `MAX_CRC_LEN`: `none` is unbounded (log 11). -/
  maxCrcLen : Option Nat
  deriving DecidableEq, Repr

/-- `L ≤ MAX_CRC_LEN` (30_encoding.md R69). -/
def Config.admitsCrcLength (c : Config) (n : Nat) : Bool :=
  match c.maxCrcLen with
  | none => true
  | some m => decide (n ≤ m)

/-- OPEN (D6, log 9): the source gives no value. -/
opaque Config.openCmdIdSetUtcTime : Byte
/-- OPEN (D6, log 9): the source gives no value. -/
opaque Config.openCmdIdGetCodecSpec : Byte
/-- OPEN (D6, log 9): the source gives no value. -/
opaque Config.openCmdIdSetCodecSpec : Byte
/-- OPEN (D8, log 9): either value fits the source. -/
opaque Config.openAttLongInput : AttLongInput

/-- The configuration fixed at boot (70_reset_and_hazards.md R233 step 1): the OPEN parameters free, the codec layout the
decided default (D5), the CRC length unbounded (D9). -/
def Config.boot : Config where
  cmdIdSetUtcTime := Config.openCmdIdSetUtcTime
  cmdIdGetCodecSpec := Config.openCmdIdGetCodecSpec
  cmdIdSetCodecSpec := Config.openCmdIdSetCodecSpec
  codecSetLayout := CodecLayout.default
  attLongInput := Config.openAttLongInput
  maxCrcLen := none

/-- A fixed-command table entry with the proof that it is a frame (41_fixed_commands.md R122: a table that fails the check
is no configuration of this block). The defaults only show that such an entry exists (95_test_vectors.md section 2.2). -/
structure FixedEntry where
  bytes : Bytes := [0x55, 0x66, 0x01, 0x00, 0x00, 0x00, 0x00, 0x00, 0x45, 0xD4]
  wf : Machine.wfFrame bytes = true := by decide
  deriving DecidableEq, Repr, Inhabited

/-- `FIXED_TABLE` (R7): `N_FIXED ≥ 1` entries, so a first one and the rest. -/
structure FixedTable where
  first : FixedEntry
  rest : List FixedEntry
  deriving DecidableEq, Repr, Inhabited

/-- The byte sequences of the table, ordinal 0 first (10_state.md R23). -/
def FixedTable.contents (t : FixedTable) : List Bytes := t.first.bytes :: t.rest.map FixedEntry.bytes

/-- OPEN (D7, log 10): `N_FIXED` and `FIXED_TABLE`. -/
opaque Config.fixedTable : FixedTable

/-- OPEN (D19, log 21), host side: the set `ACKED_COMMANDS`, the commands whose transmission awaits a reply. -/
opaque Config.ackedCommands : Instr → Bool

/-- OPEN (D19, log 21), host side: `REPLY_TIMEOUT`, in a unit of the host's. -/
opaque Config.replyTimeout : Nat

/-- OPEN (D19, log 28), host side: the payload of a reply as received. The source does not say where it stands. -/
opaque Config.replyPayload : Bytes → Bytes

end Sys2Proof
end

