-- ==== Sys2Proof/Decode.lean ====
section
/-! DEFINITION. The request record (30_encoding.md R69, R70), its decoder and its encoder. A request is a 10-bit selector
`sel = (op << 8) | tag` and operand values; it has no byte-level encoding (R69). -/

namespace Sys2Proof

/-- The operand values of a request record, each under the name R69 and R70 give it. An operation reads its own and no
other (DESIGN CHOICE, log 3). -/
structure Operands where
  data : Bytes := []
  init : Word := 0
  k : Nat := 0
  yaw : Int := 0
  pitch : Int := 0
  timestamp : Int := 0
  stream : Int := 0
  encType : Int := 0
  width : Int := 0
  height : Int := 0
  bitrate : Int := 0
  deriving DecidableEq, Repr

/-- A request as the host hands it over: the selector, in the two whole bytes that hold its 10 bits (DESIGN CHOICE, log 2),
and the operands. -/
structure Request where
  sel : BitVec 16
  operands : Operands
  deriving DecidableEq, Repr

/-- Why a request decodes to no operation (R73). -/
inductive DecodeError where
  /-- `op = 3`. -/
  | reservedOp
  /-- `op = 1` with a command tag of 6 to 255. -/
  | reservedCommandTag (tag : Byte)
  /-- A bit above the selector's ten is set. -/
  | notASelector
  deriving DecidableEq, Repr

/-- A row of the opcode table: `sel & mask = match` selects it (R70). -/
structure OpcodeRow where
  mask : BitVec 16
  value : BitVec 16
  read : Operands → Instr

/-- spec/opcode_table.json, row by row. Tag bits outside a mask are ignored (DEDUCED, log 4). -/
def opcodeTable : List OpcodeRow :=
  [⟨0x300, 0x000, fun o => .crc16 o.data o.init⟩,
   ⟨0x3FF, 0x100, fun o => .encodeFixed o.k⟩,
   ⟨0x3FF, 0x101, fun o => .encodeSetYawPitchSpeed o.yaw o.pitch⟩,
   ⟨0x3FF, 0x102, fun o => .encodeSetYawPitchAngle o.yaw o.pitch⟩,
   ⟨0x3FF, 0x103, fun o => .encodeSetUtcTime o.timestamp⟩,
   ⟨0x3FF, 0x104, fun o => .encodeGetCodecSpec o.stream⟩,
   ⟨0x3FF, 0x105, fun o => .encodeSetCodecSpec o.stream o.encType o.width o.height o.bitrate⟩,
   ⟨0x300, 0x200, fun o => .decodeAttitude o.data⟩]

/-- `op = sel[9:8]`. -/
def selectorOp (sel : BitVec 16) : BitVec 2 := sel.extractLsb' 8 2

/-- `tag = sel[7:0]`. -/
def selectorTag (sel : BitVec 16) : Byte := sel.extractLsb' 0 8

/-- The selector matches the row. -/
def OpcodeRow.selects (row : OpcodeRow) (sel : BitVec 16) : Bool := sel &&& row.mask == row.value

/-- Decoding (R70): the row the selector matches gives the operation; a selector that matches none is reserved (R73). -/
def decode (r : Request) : Except DecodeError Instr :=
  if r.sel &&& 0xFC00 ≠ 0 then .error .notASelector
  else match opcodeTable.find? (fun row => row.selects r.sel) with
    | some row => .ok (row.read r.operands)
    | none =>
      if selectorOp r.sel = 3 then .error .reservedOp else .error (.reservedCommandTag (selectorTag r.sel))

/-- The operation code and command tag of a request (R69, R70): the tag is 0 when `op` is not 1. -/
def Instr.opTag : Instr → BitVec 2 × Byte
  | .crc16 _ _ => (0, 0)
  | .encodeFixed _ => (1, 0)
  | .encodeSetYawPitchSpeed _ _ => (1, 1)
  | .encodeSetYawPitchAngle _ _ => (1, 2)
  | .encodeSetUtcTime _ => (1, 3)
  | .encodeGetCodecSpec _ => (1, 4)
  | .encodeSetCodecSpec _ _ _ _ _ => (1, 5)
  | .decodeAttitude _ => (2, 0)

/-- `sel = (op << 8) | tag` (R70). -/
def selectorOf (op : BitVec 2) (tag : Byte) : BitVec 16 := (op.setWidth 16 <<< 8) ||| tag.setWidth 16

/-- The operands of a request; those its operation does not have are left at their zero. -/
def Instr.operands : Instr → Operands
  | .crc16 data init => { data := data, init := init }
  | .encodeFixed k => { k := k }
  | .encodeSetYawPitchSpeed yaw pitch => { yaw := yaw, pitch := pitch }
  | .encodeSetYawPitchAngle yaw pitch => { yaw := yaw, pitch := pitch }
  | .encodeSetUtcTime timestamp => { timestamp := timestamp }
  | .encodeGetCodecSpec stream => { stream := stream }
  | .encodeSetCodecSpec stream encType width height bitrate =>
    { stream := stream, encType := encType, width := width, height := height, bitrate := bitrate }
  | .decodeAttitude data => { data := data }

/-- The request record of an instruction (R69, R70). -/
def encode (i : Instr) : Request := ⟨selectorOf i.opTag.1 i.opTag.2, i.operands⟩

/-- The request whose selector is the number `w` and whose operands are all zero: no data, `init` 0, ordinal 0, every
integer 0. -/
def requestOfWord (w : Nat) : Request := ⟨BitVec.ofNat 16 w, {}⟩

/-- The instruction the decoder reads from the opcode table's number `w`, the operands zero. The selector has no bits
beyond the table's, so `nbits` adds nothing. -/
def decodeTableWord (_nbits w : Nat) : Option Instr :=
  match decode (requestOfWord w) with
  | .ok i => some i
  | .error _ => none

end Sys2Proof
end

