-- ==== Sys2Proof/Machine/State.lean ====
section
/-! DEFINITION. The machine's state (10_state.md): the two ROMs, the configuration straps, the requests in progress with
their operation-local state, the response records, and the host's side of the interface. Plain data throughout. -/

namespace Sys2Proof.Machine

/-- Why the machine stops with a fault. There is no constructor: the block has no illegal operation, overflow,
misalignment or access fault (60_exceptions.md R201), a model needs none for a buffer access (20_memory.md R41), and its
one error condition is a response, not a stop (R200, R202). Log 17: safe, nothing stops where the spec goes on. -/
inductive Fault where
  deriving DecidableEq, Repr

/-- Why a request is refused: it gets no response and no status, and no step runs it (60_exceptions.md R206);
the run ends there (log 25). -/
inductive Refusal where
  /-- Raised by an arm of `exec` for an instruction that has no meaning yet; no arm does so now. Safe. -/
  | notModelled (mnemonic : String)
  /-- Raised at the fetch of a request with `op = 3` (30_encoding.md R73, D2). Safe: the spec gives it no outcome. -/
  | reservedOp
  /-- Raised at the fetch of a request with `op = 1` and a tag of 6 to 255 (R73, D3). Safe: the spec gives it no outcome. -/
  | reservedCommandTag (tag : Byte)
  /-- Raised at the fetch of a word that is no 10-bit selector (log 2). Safe: there is no such request. -/
  | notASelector
  /-- Raised by `encode.fixed` for `k ≥ N_FIXED` (41_fixed_commands.md R123). Safe: the spec refuses it. -/
  | fixedOrdinalOutOfRange
  /-- Raised by `crc16` where a realisation bounds MAX_CRC_LEN and the input is longer (D9, I12). Safe: the spec refuses it. -/
  | crcInputTooLong
  /-- Raised by `encode.SetCodecSpec` under a CODEC_SET_LAYOUT that makes no payload BUILD_FRAME takes
  (42_param_commands.md R133: at most 255 bytes; log 12). Safe: no configuration of this block has such a layout. -/
  | malformedCodecLayout
  deriving DecidableEq, Repr

/-- A response's status (60_exceptions.md R205). -/
inductive Status where
  /-- Code 0. -/
  | ok
  /-- Code 1. -/
  | malformedReply
  deriving DecidableEq, Repr

/-- An Attitude: six s16 fields, in the source's order (10_state.md R27; log 20). -/
structure Attitude where
  yaw : S16
  pitch : S16
  roll : S16
  vYaw : S16
  vPitch : S16
  vRoll : S16
  deriving DecidableEq, Repr

/-- An operation's result (10_state.md R26). -/
inductive Result where
  | checksum (crc : Word)
  | frame (bytes : Bytes)
  | attitude (a : Attitude)
  deriving DecidableEq, Repr

/-- A response record `(status, result)` (10_state.md R26). -/
structure Response where
  status : Status
  result : Option Result
  deriving DecidableEq, Repr

/-- A response as delivered: to which request (log 7, log 8), and the record. -/
structure Delivered where
  ticket : Nat
  request : Instr
  response : Response
  deriving DecidableEq, Repr

/-- `phase` (10_state.md R25). -/
inductive Phase where
  | idle
  | busy
  deriving DecidableEq, Repr

/-- Which step model a request in progress follows, with what was fixed at its acceptance. -/
inductive Work where
  /-- CRC16 (40_checksum.md R109). -/
  | checksum
  /-- A parameterized command: the prefix bytes, fixed from the captured arguments (42_param_commands.md R144). -/
  | build (pre : Bytes)
  /-- A fixed command: the table entry to copy (R144). -/
  | copy (entry : Bytes)
  /-- DECODE_ATTITUDE (43_telemetry.md R176). -/
  | attitude
  deriving DecidableEq, Repr

/-- A request in progress: its operation-local state (10_state.md R25), from acceptance to response
(DEDUCED, log 14). -/
structure InFlight where
  ticket : Nat
  request : Instr
  work : Work
  phase : Phase
  /-- `IN`, captured at acceptance (20_memory.md R53). -/
  input : Bytes
  /-- `acc`. -/
  acc : Word
  /-- `idx`. -/
  idx : Nat
  /-- `OUT`, written in order from byte 0. -/
  output : Bytes
  /-- The Attitude fields set so far (43_telemetry.md R176). -/
  fields : List S16
  deriving DecidableEq, Repr

/-- What the host, or the scheduler of the requests in progress, does next (log 6); any list of them is
one schedule (log 24). -/
inductive HostEvent where
  /-- Issue a request and run it as one transaction (00_scope.md R3, 20_memory.md R48). -/
  | request (r : Request)
  /-- Issue a request to the byte-serial step model: its acceptance (D10). -/
  | accept (r : Request)
  /-- One byte step of the request in progress with this ticket (D10, D13). -/
  | advance (ticket : Nat)
  /-- Assert reset (70_reset_and_hazards.md R230). -/
  | reset
  deriving DecidableEq, Repr

/-- The machine's state. -/
structure State where
  /-- The configuration straps (00_scope.md R7, 70_reset_and_hazards.md R233). -/
  config : Config
  /-- `ROM_CRC` (10_state.md R21). -/
  romCrc : RomCrc
  /-- `ROM_FIXED`, ordinal 0 first (10_state.md R23). -/
  romFixed : List Bytes
  /-- The requests in progress, oldest first (10_state.md R25, 60_exceptions.md R211). -/
  inProgress : List InFlight
  /-- The response records delivered, oldest first (10_state.md R26). -/
  responses : List Delivered
  /-- The ticket of the next accepted request (log 7). -/
  nextTicket : Nat
  /-- What the host does next, oldest first (log 6). -/
  events : List HostEvent
  deriving DecidableEq, Repr

/-- The machine right after reset (10_state.md R28, 70_reset_and_hazards.md R230, R233): the ROMs hold their contents, no
request is in progress, no response is pending. -/
def State.reset : State where
  config := Config.boot
  romCrc := romCrcTable
  romFixed := Config.fixedTable.contents
  inProgress := []
  responses := []
  nextTicket := 0
  events := []

end Sys2Proof.Machine
end

