-- ==== Sys2Proof/Machine/Flags.lean ====
section
/-! DEFINITION. The block has no flags and no condition codes (10_state.md R24); what an operation reports is its response's
status (R26). Its codes and its one computation. -/

namespace Sys2Proof.Machine

/-- The status codes of 60_exceptions.md R205. -/
def Status.code : Status → Nat
  | .ok => 0
  | .malformedReply => 1

/-- The status of DECODE_ATTITUDE on an input of length `L` (43_telemetry.md R172): too short, too long under
`ATT_LONG_INPUT = reject`, or OK. CRC16 and ENCODE always report OK (R100, R139). -/
def attitudeStatus (long : AttLongInput) (L : Nat) : Status :=
  if L < 12 then .malformedReply
  else if 12 < L ∧ long = .reject then .malformedReply
  else .ok

end Sys2Proof.Machine
end

