-- ==== Sys2Proof/Machine/Ops.lean ====
section
/-! DEFINITION. The operations the meanings share: completing a request with its response, raising MalformedReply (the
block's one exception, 60_exceptions.md R200), refusing, and reset (70_reset_and_hazards.md R230). -/

namespace Sys2Proof.Machine

/-- `return v`: status OK and the result (00_scope.md R11). -/
def Response.ofResult (r : Result) : Response := ⟨.ok, some r⟩

/-- `raise MalformedReply()`: status MALFORMED_REPLY and no result (R11, 60_exceptions.md R200). Nothing is saved, no mode
changes and there is no vector (R202), so there is no return from it either (R209). -/
def raiseMalformedReply : Response := ⟨.malformedReply, none⟩

/-- The response of the next accepted request reaches the host; nothing else of the block changes (20_memory.md R48,
60_exceptions.md R202). -/
def State.deliver (s : State) (i : Instr) (r : Response) : State :=
  { s with responses := s.responses ++ [⟨s.nextTicket, i, r⟩], nextTicket := s.nextTicket + 1 }

/-- Complete a request: a refused one has no outcome (60_exceptions.md R206), any other is answered. -/
def State.complete (s : State) (i : Instr) : Except Refusal Response → Host.Outcome State Fault Refusal
  | .error e => .refused e
  | .ok r => .next (s.deliver i r)

/-- The refusal of a request that decodes to no operation (30_encoding.md R73). -/
def refusalOf : DecodeError → Refusal
  | .reservedOp => .reservedOp
  | .reservedCommandTag tag => .reservedCommandTag tag
  | .notASelector => .notASelector

/-- Reset asserted (70_reset_and_hazards.md R230): every request in progress is abandoned and gets no response; the ROMs
and the configuration stay, as do the responses the host already has and what the host does next (log 16). -/
def State.assertReset (s : State) : State := { s with inProgress := [] }

/-- The block's `phase` (10_state.md R25, R28): IDLE when no request is in progress. -/
def State.phase (s : State) : Phase := if s.inProgress = [] then .idle else .busy

end Sys2Proof.Machine
end

