-- ==== Sys2Proof/Machine/Crc16.lean ====
section
/-! DEFINITION. The meaning of crc16 (40_checksum.md R100). -/

namespace Sys2Proof.Machine

/-- The answer to `crc16(data, init)`: always OK with the checksum (R100); an input beyond MAX_CRC_LEN is refused (D9, I12). -/
def answerCrc16 (s : State) (data : Bytes) (init : Word) : Except Refusal Response :=
  if s.config.admitsCrcLength data.length then .ok (.ofResult (.checksum (crc16 s.romCrc data init)))
  else .error .crcInputTooLong

/-- `crc16(data, init)` (R100). -/
def execCrc16 (data : Bytes) (init : Word) (s : State) : Host.Outcome State Fault Refusal :=
  s.complete (.crc16 data init) (answerCrc16 s data init)

end Sys2Proof.Machine
end

