-- ==== Sys2Proof/Machine/FixedCommands.lean ====
section
/-! DEFINITION. The meaning of encode.fixed (41_fixed_commands.md R120 to R125). -/

namespace Sys2Proof.Machine

/-- The answer to `encode(Fixed(k))`: a copy of ROM_FIXED[k], with no computation (R120, R121); refused for `k ≥ N_FIXED`
(R123). -/
def answerEncodeFixed (s : State) (k : Nat) : Except Refusal Response :=
  match s.romFixed[k]? with
  | some e => .ok (.ofResult (.frame e))
  | none => .error .fixedOrdinalOutOfRange

/-- `encode(Fixed(k))` (R120). -/
def execEncodeFixed (k : Nat) (s : State) : Host.Outcome State Fault Refusal :=
  s.complete (.encodeFixed k) (answerEncodeFixed s k)

end Sys2Proof.Machine
end

