-- ==== Sys2Proof/Machine/ParamCommands.lean ====
section
/-! DEFINITION. The meanings of the five parameterized commands (42_param_commands.md R134 to R138): each clamps its arguments,
serializes them in the order of 30_encoding.md R72, and builds the frame (R133). -/

namespace Sys2Proof.Machine

/-- The answer of a parameterized command: OK with the frame of this CMD_ID and payload (R133). -/
def answerFrame (s : State) (cmdId : Byte) (payload : Bytes) : Except Refusal Response :=
  .ok (.ofResult (.frame (buildFrame s.romCrc cmdId payload)))

/-- The payload of SetYawPitchSpeed (R134): one byte each, clamped to [-100, 100]. -/
def speedPayload (yaw pitch : Int) : Bytes := ser1 (clamp yaw (-100) 100) ++ ser1 (clamp pitch (-100) 100)

/-- SetYawPitchSpeed's CMD_ID (R134, 30_encoding.md R71). -/
def cmdIdSetYawPitchSpeed : Byte := 0x07

/-- `encode(SetYawPitchSpeed(yaw, pitch))` (R134). -/
def execEncodeSetYawPitchSpeed (yaw pitch : Int) (s : State) : Host.Outcome State Fault Refusal :=
  s.complete (.encodeSetYawPitchSpeed yaw pitch) (answerFrame s cmdIdSetYawPitchSpeed (speedPayload yaw pitch))

/-- The payload of SetYawPitchAngle (R135): big-endian 16 bits each, yaw clamped to [-1350, 1350], pitch to [-900, 250]. -/
def anglePayload (yaw pitch : Int) : Bytes := serBe (clamp yaw (-1350) 1350) 2 ++ serBe (clamp pitch (-900) 250) 2

/-- SetYawPitchAngle's CMD_ID (R135, 30_encoding.md R71). -/
def cmdIdSetYawPitchAngle : Byte := 0x0E

/-- `encode(SetYawPitchAngle(yaw, pitch))` (R135). -/
def execEncodeSetYawPitchAngle (yaw pitch : Int) (s : State) : Host.Outcome State Fault Refusal :=
  s.complete (.encodeSetYawPitchAngle yaw pitch) (answerFrame s cmdIdSetYawPitchAngle (anglePayload yaw pitch))

/-- The payload of SetUtcTime (R136): big-endian 64 bits, saturated to [0, 2^64 - 1]. -/
def utcPayload (timestamp : Int) : Bytes := serBe (clamp timestamp 0 (2 ^ 64 - 1)) 8

/-- `encode(SetUtcTime(timestamp))` (R136). -/
def execEncodeSetUtcTime (timestamp : Int) (s : State) : Host.Outcome State Fault Refusal :=
  s.complete (.encodeSetUtcTime timestamp) (answerFrame s s.config.cmdIdSetUtcTime (utcPayload timestamp))

/-- The payload of GetCodecSpec (R137): one byte, clamped to [0, 2]. -/
def getCodecPayload (stream : Int) : Bytes := ser1 (clamp stream 0 2)

/-- `encode(GetCodecSpec(stream))` (R137). -/
def execEncodeGetCodecSpec (stream : Int) (s : State) : Host.Outcome State Fault Refusal :=
  s.complete (.encodeGetCodecSpec stream) (answerFrame s s.config.cmdIdGetCodecSpec (getCodecPayload stream))

/-- The arguments of Set codec spec (R138). -/
structure CodecArgs where
  stream : Int
  encType : Int
  width : Int
  height : Int
  bitrate : Int
  deriving DecidableEq, Repr

/-- One argument of Set codec spec, clamped (R138): stream to [0, 2], encoder type to [1, 2]; width, height and bitrate have
no stated range and are saturated to the range of their `n` serialized bytes (R140, D4). -/
def codecValue (a : CodecArgs) (n : Nat) : CodecArg → Int
  | .stream => clamp a.stream 0 2
  | .encType => clamp a.encType 1 2
  | .width => clampToWidth a.width n
  | .height => clampToWidth a.height n
  | .bitrate => clampToWidth a.bitrate n

/-- The payload of SetCodecSpec under a layout (R138, D5): its fields in the layout's order. -/
def setCodecPayload (l : CodecLayout) (a : CodecArgs) : Bytes :=
  l.flatMap fun f => serField (codecValue a f.bytes f.arg) f.bytes

/-- The answer to `encode(SetCodecSpec(…))` under the configuration's CODEC_SET_LAYOUT; a layout that makes no payload is
no configuration of this block (R133, log 12). -/
def answerSetCodecSpec (s : State) (a : CodecArgs) : Except Refusal Response :=
  if CodecLayout.wf s.config.codecSetLayout then
    answerFrame s s.config.cmdIdSetCodecSpec (setCodecPayload s.config.codecSetLayout a)
  else .error .malformedCodecLayout

/-- `encode(SetCodecSpec(stream, enc_type, width, height, bitrate))` (R138). -/
def execEncodeSetCodecSpec (stream encType width height bitrate : Int) (s : State) : Host.Outcome State Fault Refusal :=
  s.complete (.encodeSetCodecSpec stream encType width height bitrate)
    (answerSetCodecSpec s ⟨stream, encType, width, height, bitrate⟩)

end Sys2Proof.Machine
end

