-- ==== Sys2Proof/Machine/Telemetry.lean ====
section
/-! DEFINITION. The meaning of decode_attitude (43_telemetry.md R170 to R175). -/

namespace Sys2Proof.Machine

/-- Field `j`: `le_s16(MemRead(IN, 2j, 1), MemRead(IN, 2j+1, 1))` (R172, R173). -/
def attitudeField (data : Bytes) (j : Nat) : Option S16 :=
  match memRead data (2 * j), memRead data (2 * j + 1) with
  | some b0, some b1 => some (leS16 b0 b1)
  | _, _ => none

/-- The Attitude of six fields in the order of R173. The fields are raw, neither scaled nor offset (R174). -/
def attitudeOf : List S16 → Option Attitude
  | [yaw, pitch, roll, vYaw, vPitch, vRoll] => some ⟨yaw, pitch, roll, vYaw, vPitch, vRoll⟩
  | _ => none

/-- The Attitude in bytes 0 to 11 of the payload (R172): `none` only where it has fewer. -/
def attitudeIn (data : Bytes) : Option Attitude :=
  ((List.range 6).mapM (attitudeField data)).bind attitudeOf

/-- The answer to `decode_attitude(data)` (R172): MalformedReply for a payload whose length is refused or that holds no six
2-byte groups (R200), else OK with the Attitude, never a part of one (R175). -/
def answerDecodeAttitude (s : State) (data : Bytes) : Except Refusal Response :=
  match attitudeStatus s.config.attLongInput data.length, attitudeIn data with
  | .ok, some a => .ok (.ofResult (.attitude a))
  | _, _ => .ok raiseMalformedReply

/-- `decode_attitude(data)` (R172). -/
def execDecodeAttitude (data : Bytes) (s : State) : Host.Outcome State Fault Refusal :=
  s.complete (.decodeAttitude data) (answerDecodeAttitude s data)

end Sys2Proof.Machine
end

