-- ==== Sys2Proof/Machine/Dispatch.lean ====
section
/-! DEFINITION. One arm per request: ENCODE's dispatch on the command tag (42_param_commands.md R139) and the other two
operations (00_scope.md R3). -/

namespace Sys2Proof.Machine

/-- The meaning of a request. -/
def exec (i : Instr) (s : State) : Host.Outcome State Fault Refusal :=
  match i with
  | .crc16 data init => Sys2Proof.Machine.execCrc16 data init s
  | .encodeFixed k => Sys2Proof.Machine.execEncodeFixed k s
  | .encodeSetYawPitchSpeed yaw pitch => Sys2Proof.Machine.execEncodeSetYawPitchSpeed yaw pitch s
  | .encodeSetYawPitchAngle yaw pitch => Sys2Proof.Machine.execEncodeSetYawPitchAngle yaw pitch s
  | .encodeSetUtcTime timestamp => Sys2Proof.Machine.execEncodeSetUtcTime timestamp s
  | .encodeGetCodecSpec stream => Sys2Proof.Machine.execEncodeGetCodecSpec stream s
  | .encodeSetCodecSpec stream encType width height bitrate => Sys2Proof.Machine.execEncodeSetCodecSpec stream encType width height bitrate s
  | .decodeAttitude data => Sys2Proof.Machine.execDecodeAttitude data s

end Sys2Proof.Machine
end

