-- ==== Sys2Proof/Machine/Serial.lean ====
section
/-! DEFINITION. The byte-serial step model (D10; DESIGN CHOICE, log 1): acceptance, the byte steps of CRC16 (40_checksum.md R109), ENCODE
(42_param_commands.md R144) and DECODE_ATTITUDE (43_telemetry.md R176), and the response that follows the last one. -/

namespace Sys2Proof.Machine

/-- What a request's acceptance does: refuse it, answer it with no byte step, or start it. -/
inductive Launch where
  | refuse (r : Refusal)
  | answered (r : Response)
  | started (work : Work) (input : Bytes) (acc : Word)
  deriving DecidableEq, Repr

/-- The start of a parameterized command: the prefix is fixed from the captured arguments, `acc <- 0` (R144). -/
def launchFrame (cmdId : Byte) (payload : Bytes) : Launch := .started (.build (framePrefix cmdId payload)) [] 0

/-- Acceptance (R109, R144, R176): the refusal checks come first (60_exceptions.md R207), then the operation-local state is
set up from the captured operands (20_memory.md R53; log 19). -/
def launch (s : State) : Instr → Launch
  | .crc16 data init =>
    if s.config.admitsCrcLength data.length then .started .checksum data init else .refuse .crcInputTooLong
  | .encodeFixed k =>
    match s.romFixed[k]? with
    | some e => .started (.copy e) [] 0
    | none => .refuse .fixedOrdinalOutOfRange
  | .encodeSetYawPitchSpeed yaw pitch => launchFrame cmdIdSetYawPitchSpeed (speedPayload yaw pitch)
  | .encodeSetYawPitchAngle yaw pitch => launchFrame cmdIdSetYawPitchAngle (anglePayload yaw pitch)
  | .encodeSetUtcTime timestamp => launchFrame s.config.cmdIdSetUtcTime (utcPayload timestamp)
  | .encodeGetCodecSpec stream => launchFrame s.config.cmdIdGetCodecSpec (getCodecPayload stream)
  | .encodeSetCodecSpec stream encType width height bitrate =>
    if CodecLayout.wf s.config.codecSetLayout then
      launchFrame s.config.cmdIdSetCodecSpec
        (setCodecPayload s.config.codecSetLayout ⟨stream, encType, width, height, bitrate⟩)
    else .refuse .malformedCodecLayout
  | .decodeAttitude data =>
    match attitudeStatus s.config.attLongInput data.length with
    | .ok => .started .attitude data 0
    | .malformedReply => .answered raiseMalformedReply

/-- One byte step (R109: one input byte; R144: one output byte; R176: one field). -/
def byteStep (rom : RomCrc) (l : InFlight) : InFlight :=
  match l.work with
  | .checksum =>
    match memRead l.input l.idx with
    | some b => { l with acc := crcStep rom l.acc b, idx := l.idx + 1 }
    | none => l
  | .build p =>
    match memRead p l.idx with
    | some b =>
      { l with output := memWrite l.output l.idx b, acc := crcStep rom l.acc b, idx := l.idx + 1 }
    | none =>
      { l with
        output := memWrite l.output l.idx (if l.idx = p.length then lowByte l.acc else highByte l.acc)
        idx := l.idx + 1 }
  | .copy e =>
    match memRead e l.idx with
    | some b => { l with output := memWrite l.output l.idx b, idx := l.idx + 1 }
    | none => l
  | .attitude =>
    match memRead l.input l.idx, memRead l.input (l.idx + 1) with
    | some b0, some b1 => { l with fields := l.fields ++ [leS16 b0 b1], idx := l.idx + 2 }
    | _, _ => l

/-- The response, once the last byte step is done: CRC16 at `idx = L` (R109), a parameterized command after the two checksum
bytes, a fixed command after the entry's last byte (R144), DECODE_ATTITUDE after the sixth field (R176). -/
def InFlight.response (l : InFlight) : Option Response :=
  match l.work with
  | .checksum => if l.idx = l.input.length then some (.ofResult (.checksum l.acc)) else none
  | .build p => if l.idx = p.length + 2 then some (.ofResult (.frame l.output)) else none
  | .copy e => if l.idx = e.length then some (.ofResult (.frame l.output)) else none
  | .attitude => (attitudeOf l.fields).map fun a => .ofResult (.attitude a)

/-- The operation-local state at acceptance: `phase <- BUSY`, `idx <- 0`, nothing written yet. -/
def InFlight.start (ticket : Nat) (i : Instr) (work : Work) (input : Bytes) (acc : Word) : InFlight where
  ticket := ticket
  request := i
  work := work
  phase := .busy
  input := input
  acc := acc
  idx := 0
  output := []
  fields := []

/-- Accept a request (R109, R144, R176): one that needs no byte step is answered at acceptance. -/
def State.accept (s : State) (i : Instr) : Host.Outcome State Fault Refusal :=
  match launch s i with
  | .refuse e => .refused e
  | .answered r => .next (s.deliver i r)
  | .started work input acc =>
    let l := InFlight.start s.nextTicket i work input acc
    match l.response with
    | some r => .next (s.deliver i r)
    | none => .next { s with inProgress := s.inProgress ++ [l], nextTicket := s.nextTicket + 1 }

/-- The request in progress with this ticket. -/
def State.inFlight? (s : State) (ticket : Nat) : Option InFlight :=
  s.inProgress.find? fun l => l.ticket == ticket && l.phase == .busy

/-- One byte step of the request with this ticket. After its last one the response is delivered and the operation-local
state discarded (10_state.md R25; DEDUCED, log 18). Where no such request is in progress nothing happens (log 15). -/
def State.advance (s : State) (ticket : Nat) : State :=
  match s.inFlight? ticket with
  | none => s
  | some l =>
    let l' := byteStep s.romCrc l
    match l'.response with
    | some r =>
      { s with
        inProgress := s.inProgress.filter fun m => m.ticket != ticket
        responses := s.responses ++ [⟨l.ticket, l.request, r⟩] }
    | none => { s with inProgress := s.inProgress.map fun m => if m.ticket = ticket then l' else m }

/-- How many byte steps a request takes (70_reset_and_hazards.md R238): CRC16 one per input byte, ENCODE one per frame byte
(`10 + DATA_LEN`), DECODE_ATTITUDE six, or none when it fails. -/
def byteSteps (s : State) : Instr → Nat
  | .crc16 data _ => data.length
  | .encodeFixed k => match s.romFixed[k]? with
    | some e => e.length
    | none => 0
  | .encodeSetYawPitchSpeed _ _ => 12
  | .encodeSetYawPitchAngle _ _ => 14
  | .encodeSetUtcTime _ => 18
  | .encodeGetCodecSpec _ => 11
  | .encodeSetCodecSpec _ _ _ _ _ => 10 + CodecLayout.dataLen s.config.codecSetLayout
  | .decodeAttitude data => match attitudeStatus s.config.attLongInput data.length with
    | .ok => 6
    | .malformedReply => 0

end Sys2Proof.Machine
end

