-- ==== Sys2Proof/Machine/Step.lean ====
section
/-! DEFINITION. One step of the machine: the host's next event. The block fetches no instructions of its own (20_memory.md
R54); a request is taken from the host, decoded and run. -/

namespace Sys2Proof.Machine

/-- What one event does, the event itself already taken from the host. -/
def runEvent (s : State) : HostEvent → Host.Outcome State Fault Refusal
  | .request r =>
    match decode r with
    | .ok i => exec i s
    | .error e => .refused (refusalOf e)
  | .accept r =>
    match decode r with
    | .ok i => s.accept i
    | .error e => .refused (refusalOf e)
  | .advance ticket => .next (s.advance ticket)
  | .reset => .next s.assertReset

/-- One step: the host's next event; with none, the block waits (log 6). -/
def step (s : State) : Host.Outcome State Fault Refusal :=
  match s.events with
  | [] => .next s
  | e :: rest => runEvent { s with events := rest } e

/-- `s` with the request of the opcode table's number `w`, its operands zero, as the host's next event. The selector has no
bits beyond the table's, so `nbits` adds nothing. -/
def State.withFetchWord (s : State) (_nbits w : Nat) : State :=
  { s with events := .request (requestOfWord w) :: s.events }

end Sys2Proof.Machine
end

