-- ==== Sys2Proof/Machine/Assembler.lean ====
section
/-! DEFINITION. The call syntax of requests (30_encoding.md R74, D27), from text to request. What R74 leaves open (how bytes
may be written besides 0xHH, the digits of a number, white space) is the model's choice: DESIGN CHOICE, log 26. -/

namespace Sys2Proof.Machine

/-- A token of the call syntax. -/
inductive Token where
  | name (cs : List Char)
  | number (v : Int)
  | text (cs : List Char)
  | sign (c : Char)
  deriving DecidableEq, Repr

/-- What the reader of tokens is in the middle of. -/
inductive Reading where
  | nothing
  | name (rev : List Char)
  | minus
  | zero (neg : Bool)
  | decimal (neg : Bool) (n : Nat)
  | hexStart (neg : Bool)
  | hex (neg : Bool) (n : Nat)
  | text (rev : List Char)
  deriving DecidableEq, Repr

/-- The value of a hexadecimal digit. -/
def hexDigit (c : Char) : Option Nat :=
  if 48 ≤ c.toNat ∧ c.toNat ≤ 57 then some (c.toNat - 48)
  else if 65 ≤ c.toNat ∧ c.toNat ≤ 70 then some (c.toNat - 55)
  else if 97 ≤ c.toNat ∧ c.toNat ≤ 102 then some (c.toNat - 87)
  else none

/-- The value of a decimal digit. -/
def decDigit (c : Char) : Option Nat :=
  if 48 ≤ c.toNat ∧ c.toNat ≤ 57 then some (c.toNat - 48) else none

/-- A letter or underscore. -/
def isNameStart (c : Char) : Bool :=
  (65 ≤ c.toNat && c.toNat ≤ 90) || (97 ≤ c.toNat && c.toNat ≤ 122) || c.toNat == 95

/-- An optionally negative number. -/
def signed (neg : Bool) (n : Nat) : Int := if neg then -(n : Int) else n

/-- A character where a token may start (34 is the double quote). The space (32) is the only white space (DESIGN CHOICE,
log 26). -/
def startToken (c : Char) : Option (Reading × List Token) :=
  if c.toNat = 32 then some (.nothing, [])
  else if c.toNat = 34 then some (.text [], [])
  else if c = '-' then some (.minus, [])
  else if c = '0' then some (.zero false, [])
  else if isNameStart c then some (.name [c], [])
  else if c = '(' ∨ c = ')' ∨ c = '[' ∨ c = ']' ∨ c = ',' then some (.nothing, [.sign c])
  else (decDigit c).map fun d => (.decimal false d, [])

/-- A token ends before `c`, and `c` starts the next one. -/
def endBefore (c : Char) (t : Token) : Option (Reading × List Token) :=
  (startToken c).map fun p => (p.1, t :: p.2)

/-- Read one character. A number is any digits after an optional minus, in decimal or after 0x, where there must be at
least one, in either case of letter; a name goes on with letters, digits and underscores (DESIGN CHOICE, log 26). -/
def readChar (c : Char) : Reading → Option (Reading × List Token)
  | .nothing => startToken c
  | .name rev => if isNameStart c || (decDigit c).isSome then some (.name (c :: rev), []) else endBefore c (.name rev.reverse)
  | .minus => if c = '0' then some (.zero true, []) else (decDigit c).map fun d => (.decimal true d, [])
  | .zero neg =>
    if c = 'x' then some (.hexStart neg, [])
    else match decDigit c with
      | some d => some (.decimal neg d, [])
      | none => endBefore c (.number 0)
  | .decimal neg n =>
    match decDigit c with
    | some d => some (.decimal neg (10 * n + d), [])
    | none => endBefore c (.number (signed neg n))
  | .hexStart neg => (hexDigit c).map fun d => (.hex neg d, [])
  | .hex neg n =>
    match hexDigit c with
    | some d => some (.hex neg (16 * n + d), [])
    | none => endBefore c (.number (signed neg n))
  | .text rev => if c.toNat = 34 then some (.nothing, [.text rev.reverse]) else some (.text (c :: rev), [])

/-- The tokens of a text. Every text of the syntax ends in a closing parenthesis, so nothing is being read at its end. -/
def tokens : Reading → List Char → Option (List Token)
  | .nothing, [] => some []
  | _, [] => none
  | r, c :: cs =>
    match readChar c r with
    | some (r', ts) => (tokens r' cs).map (ts ++ ·)
    | none => none

/-- A byte: a number from 0 to 255, decimal or 0x-hex, with any number of digits, where R74 writes 0xHH (DESIGN CHOICE,
log 26). -/
def byteOfNumber (v : Int) : Option Byte := if 0 ≤ v ∧ v < 256 then some (BitVec.ofNat 8 v.toNat) else none

/-- The bytes of a list after its opening bracket, with the tokens after it. A byte may be any number that `byteOfNumber`
takes (DESIGN CHOICE, log 26). -/
def bytesTail : List Token → Option (Bytes × List Token)
  | .number v :: .sign ',' :: rest =>
    match byteOfNumber v, bytesTail rest with
    | some b, some (bs, rest') => some (b :: bs, rest')
    | _, _ => none
  | .number v :: .sign ']' :: rest => (byteOfNumber v).map fun b => ([b], rest)
  | _ => none

/-- `<bytes>` (R74): a list of bytes, or an ASCII string that stands for its byte codes. -/
def parseBytes : List Token → Option (Bytes × List Token)
  | .text cs :: rest =>
    if cs.all (fun c => decide (c.toNat < 128)) then some (cs.map fun c => BitVec.ofNat 8 c.toNat, rest) else none
  | .sign '[' :: .sign ']' :: rest => some ([], rest)
  | .sign '[' :: rest => bytesTail rest
  | _ => none

/-- `<command>` (R74). -/
def parseCommand (name : List Char) : List Token → Option Instr
  | [.number k, .sign ')', .sign ')'] =>
    if name = "Fixed".toList then (if 0 ≤ k then some (.encodeFixed k.toNat) else none)
    else if name = "SetUtcTime".toList then some (.encodeSetUtcTime k)
    else if name = "GetCodecSpec".toList then some (.encodeGetCodecSpec k)
    else none
  | [.number yaw, .sign ',', .number pitch, .sign ')', .sign ')'] =>
    if name = "SetYawPitchSpeed".toList then some (.encodeSetYawPitchSpeed yaw pitch)
    else if name = "SetYawPitchAngle".toList then some (.encodeSetYawPitchAngle yaw pitch)
    else none
  | [.number stream, .sign ',', .number encType, .sign ',', .number width, .sign ',', .number height, .sign ',',
      .number bitrate, .sign ')', .sign ')'] =>
    if name = "SetCodecSpec".toList then some (.encodeSetCodecSpec stream encType width height bitrate) else none
  | _ => none

/-- A request in call syntax (R74). -/
def parseRequest : List Token → Option Instr
  | .name op :: .sign '(' :: rest =>
    if op = "crc16".toList then
      match parseBytes rest with
      | some (data, [.sign ',', .number v, .sign ')']) =>
        if 0 ≤ v ∧ v < 65536 then some (.crc16 data (BitVec.ofNat 16 v.toNat)) else none
      | _ => none
    else if op = "decode_attitude".toList then
      match parseBytes rest with
      | some (data, [.sign ')']) => some (.decodeAttitude data)
      | _ => none
    else if op = "encode".toList then
      match rest with
      | .name cmd :: .sign '(' :: args => parseCommand cmd args
      | _ => none
    else none
  | _ => none

/-- The request a text names (R74); `none` for a text that is not in the syntax. -/
def assemble (text : List Char) : Option Instr := (tokens .nothing text).bind parseRequest

end Sys2Proof.Machine
end

