-- ==== Sys2Proof/Machine/HostOps.lean ====
section
/-! DEFINITION. The pseudo-operations: host-side expansions into a crc16 request and host work on its response
(30_encoding.md R75, R76, D26). -/

namespace Sys2Proof.Machine

/-- The checksum in the newest response record. -/
def State.lastChecksum (s : State) : Option Word :=
  match s.responses.getLast? with
  | some ⟨_, _, ⟨.ok, some (.checksum c)⟩⟩ => some c
  | _ => none

/-- One crc16 request and the checksum the host gets back, with the state after it; `none` where it is refused. -/
def hostCrc16 (data : Bytes) (init : Word) (s : State) : Option (Word × State) :=
  match execCrc16 data init s with
  | .next t => t.lastChecksum.map fun c => (c, t)
  | .fault _ => none
  | .refused _ => none

/-- `check_frame(f)` (R75): the checksum clauses of WF_FRAME only. -/
def checkFrame (f : Bytes) (s : State) : Option (Bool × State) :=
  if f.length < 2 then some (false, s)
  else (hostCrc16 (f.take (f.length - 2)) 0 s).map fun p =>
    (f[f.length - 2]? == some (lowByte p.1) && f[f.length - 1]? == some (highByte p.1), p.2)

/-- `append_crc(p)` (R76). -/
def appendCrc (pre : Bytes) (s : State) : Option (Bytes × State) :=
  (hostCrc16 pre 0 s).map fun p => (pre ++ [lowByte p.1, highByte p.1], p.2)

end Sys2Proof.Machine
end

