-- ==== Sys2Proof/Machine/Answer.lean ====
section
/-! DEFINITION. The response each request is owed (20_memory.md R49, R52): a function of the request, the configuration and the
two ROMs. The meanings of `exec` deliver it; the byte-serial step model must reach it (10_state.md R25). -/

namespace Sys2Proof.Machine

/-- The response to a request, or the refusal of it. -/
def answer (s : State) : Instr → Except Refusal Response
  | .crc16 data init => answerCrc16 s data init
  | .encodeFixed k => answerEncodeFixed s k
  | .encodeSetYawPitchSpeed yaw pitch => answerFrame s cmdIdSetYawPitchSpeed (speedPayload yaw pitch)
  | .encodeSetYawPitchAngle yaw pitch => answerFrame s cmdIdSetYawPitchAngle (anglePayload yaw pitch)
  | .encodeSetUtcTime timestamp => answerFrame s s.config.cmdIdSetUtcTime (utcPayload timestamp)
  | .encodeGetCodecSpec stream => answerFrame s s.config.cmdIdGetCodecSpec (getCodecPayload stream)
  | .encodeSetCodecSpec stream encType width height bitrate =>
    answerSetCodecSpec s ⟨stream, encType, width, height, bitrate⟩
  | .decodeAttitude data => answerDecodeAttitude s data

end Sys2Proof.Machine
end

