-- ==== Sys2Proof/WellFormed.lean ====
section
/-! DEFINITION. Which requests are admitted (42_param_commands.md R141, 30_encoding.md R69, R73): a crc16 no longer than
MAX_CRC_LEN, a fixed ordinal below N_FIXED. Every other operand value is admitted (R140; 43_telemetry.md R172). -/

namespace Sys2Proof

/-- The request is admitted under a configuration whose fixed table has `nFixed` entries. -/
def Instr.wellFormed (c : Config) (nFixed : Nat) : Instr → Bool
  | .crc16 data _ => c.admitsCrcLength data.length
  | .encodeFixed k => decide (k < nFixed)
  | .encodeSetYawPitchSpeed _ _ => true
  | .encodeSetYawPitchAngle _ _ => true
  | .encodeSetUtcTime _ => true
  | .encodeGetCodecSpec _ => true
  | .encodeSetCodecSpec _ _ _ _ _ => true
  | .decodeAttitude _ => true

end Sys2Proof
end

