-- ==== Sys2Proof/Machine/Session.lean ====
section
/-! DEFINITION. The host's side of the interface (60_exceptions.md R204, R212, R213; 70_reset_and_hazards.md R235, R236): what
the transport reports, what the Session keeps of its exchanges, and the host's duties. No part of the block reads any of it
(00_scope.md R5; DESIGN CHOICE, log 21). -/

namespace Sys2Proof.Machine

/-- The conditions that are the host's, not the block's (60_exceptions.md R204). -/
inductive HostCondition where
  | transportError
  | timeout
  deriving DecidableEq, Repr

/-- What `send(bytes)` gives back (R212). -/
inductive SendResult where
  | sent (count : Nat)
  | transportError
  deriving DecidableEq, Repr

/-- What `receive(buffer, timeout)` gives back (R212): the bytes of the reply as received, not yet stripped. -/
inductive ReceiveResult where
  | bytes (received : Bytes)
  | timeout
  | transportError
  deriving DecidableEq, Repr

/-- What a send means to the host: a byte count, or TransportError, which zero bytes sent is too (R204, R212). -/
def SendResult.outcome : SendResult → Except HostCondition Nat
  | .sent 0 => .error .transportError
  | .sent (n + 1) => .ok (n + 1)
  | .transportError => .error .transportError

/-- What a receive means to the host: the reply, or Timeout, or TransportError, which zero bytes received is too (R204). -/
def ReceiveResult.outcome : ReceiveResult → Except HostCondition Bytes
  | .bytes [] => .error .transportError
  | .bytes (b :: bs) => .ok (b :: bs)
  | .timeout => .error .timeout
  | .transportError => .error .transportError

/-- How an acknowledged exchange ends (R235): its reply arrives, or its timeout expires. -/
inductive ExchangeEnd where
  /-- The reply as received. That it answers this exchange's command rests on the host's discipline alone (R236). -/
  | reply (received : Bytes)
  /-- Send-without-confirmation: the wait expired, which is no protocol error (R213). -/
  | unconfirmed
  deriving DecidableEq, Repr

/-- What the host does (R212): it issues a request to the block, sends a command's frame, or awaits a reply. -/
inductive HostAction where
  | request (i : Instr)
  | send (command : Instr) (result : SendResult)
  | receive (timeout : Nat) (result : ReceiveResult)
  deriving DecidableEq, Repr

/-- An acknowledged exchange that awaits its reply, and how much of REPLY_TIMEOUT its receives have been given (log 27). -/
structure Exchange where
  command : Instr
  waited : Nat
  deriving DecidableEq, Repr

/-- The host's view of one transport: the exchanges that await a reply, how the others ended, and the conditions met. -/
structure Session where
  awaiting : List Exchange
  ended : List (Instr × ExchangeEnd)
  conditions : List (Instr × HostCondition)
  deriving DecidableEq, Repr

/-- A Session that has done nothing yet. -/
def Session.start : Session := ⟨[], [], []⟩

/-- What the host's duties refer to: ACKED_COMMANDS and REPLY_TIMEOUT (00_scope.md R7), where the payload stands in a reply
(D19, log 28), and which commands are admitted (30_encoding.md R73). -/
structure HostRules where
  acked : Instr → Bool
  replyTimeout : Nat
  replyPayload : Bytes → Bytes
  admitted : Instr → Bool

/-- The duties under the configuration fixed at boot. -/
def HostRules.boot : HostRules where
  acked := Config.ackedCommands
  replyTimeout := Config.replyTimeout
  replyPayload := Config.replyPayload
  admitted := fun i => i.wellFormed Config.boot Config.fixedTable.contents.length

/-- `data` is the payload of a reply the host has received, the reply frame stripped (R212; 43_telemetry.md R170). -/
def Session.hasPayload (r : HostRules) (h : Session) (data : Bytes) : Bool :=
  h.ended.any fun e =>
    match e.2 with
    | .reply received => r.replyPayload received == data
    | .unconfirmed => false

/-- The host's duty in issuing a request (R212): none for a checksum, only admitted commands to encode, only the payload of
a reply to decode. -/
def Session.mayRequest (r : HostRules) (h : Session) : Instr → Bool
  | .crc16 _ _ => true
  | .encodeFixed k => r.admitted (.encodeFixed k)
  | .encodeSetYawPitchSpeed yaw pitch => r.admitted (.encodeSetYawPitchSpeed yaw pitch)
  | .encodeSetYawPitchAngle yaw pitch => r.admitted (.encodeSetYawPitchAngle yaw pitch)
  | .encodeSetUtcTime timestamp => r.admitted (.encodeSetUtcTime timestamp)
  | .encodeGetCodecSpec stream => r.admitted (.encodeGetCodecSpec stream)
  | .encodeSetCodecSpec stream encType width height bitrate =>
    r.admitted (.encodeSetCodecSpec stream encType width height bitrate)
  | .decodeAttitude data => h.hasPayload r data

/-- The host's duties (R212, R235): request as it may; send the frames of admitted commands, an acknowledged one only while
no exchange awaits its reply, whatever the send will report; await a reply only for an acknowledged exchange, all its
receives together no longer than REPLY_TIMEOUT. -/
def Session.permits (r : HostRules) (h : Session) : HostAction → Bool
  | .request i => h.mayRequest r i
  | .send c _ => c.opTag.1 == 1 && r.admitted c && (!r.acked c || h.awaiting.isEmpty)
  | .receive timeout _ =>
    match h.awaiting with
    | [e] => decide (e.waited + timeout ≤ r.replyTimeout)
    | _ => false

/-- What a receive does to the exchange it is for: only a reply or a timeout ends it (R235), so a TransportError leaves it
awaiting. -/
def Session.receive (h : Session) (e : Exchange) (timeout : Nat) (result : ReceiveResult) : Session :=
  match result.outcome with
  | .ok received => { h with awaiting := [], ended := h.ended ++ [(e.command, .reply received)] }
  | .error .timeout =>
    { awaiting := [], ended := h.ended ++ [(e.command, .unconfirmed)], conditions := h.conditions ++ [(e.command, .timeout)] }
  | .error .transportError =>
    { h with
      awaiting := [{ e with waited := e.waited + timeout }]
      conditions := h.conditions ++ [(e.command, .transportError)] }

/-- What a send does: an acknowledged command's exchange starts, whatever the send reports (DESIGN CHOICE, log 27). -/
def Session.send (r : HostRules) (h : Session) (c : Instr) (result : SendResult) : Session :=
  { h with
    awaiting := if r.acked c then h.awaiting ++ [⟨c, 0⟩] else h.awaiting
    conditions := match result.outcome with
      | .ok _ => h.conditions
      | .error condition => h.conditions ++ [(c, condition)] }

/-- One action of a disciplined host, `none` where it breaks a duty. -/
def Session.act (r : HostRules) (h : Session) (a : HostAction) : Option Session :=
  if h.permits r a then
    match a with
    | .request _ => some h
    | .send c result => some (h.send r c result)
    | .receive timeout result =>
      match h.awaiting with
      | [e] => some (h.receive e timeout result)
      | _ => none
  else none

/-- A host's run, `none` where it breaks a duty. -/
def Session.run (r : HostRules) : Session → List HostAction → Option Session
  | h, [] => some h
  | h, a :: rest => (h.act r a).bind fun h' => Session.run r h' rest

/-- The host's requests reach the block; its transport does not (R212, 00_scope.md R5). -/
def HostAction.event? : HostAction → Option HostEvent
  | .request i => some (.request (encode i))
  | .send _ _ => none
  | .receive _ _ => none

end Sys2Proof.Machine
end

