-- ==== Sys2Proof/Safety.lean ====
section
/-! DEFINITION. What counts as a good state of the machine (`State.Inv`), and what counts as a disciplined host: the duties the
spec gives it toward the block and the transport (60_exceptions.md R212, R213; 70_reset_and_hazards.md R235). -/

namespace Sys2Proof.Machine

/-- `n` steps of the machine, up to the first stop. -/
def runSteps : Nat → State → Host.Outcome State Fault Refusal
  | 0, s => .next s
  | n + 1, s =>
    match step s with
    | .next t => runSteps n t
    | .fault f => .fault f
    | .refused r => .refused r

/-- The operation-local state of a request in progress is what its byte steps so far have made of the captured request
(40_checksum.md R109, 42_param_commands.md R144, 43_telemetry.md R176), and its response is still to come. -/
def InFlight.Consistent (s : State) (l : InFlight) : Prop :=
  l.phase = .busy ∧
  ∃ acc, launch s l.request = .started l.work l.input acc ∧
    match l.work with
    | .checksum => l.idx < l.input.length ∧ l.acc = crc16 s.romCrc (l.input.take l.idx) acc
    | .build p =>
      l.idx < p.length + 2 ∧ l.acc = crc16 s.romCrc (p.take l.idx) 0 ∧ l.output = (withChecksum s.romCrc p).take l.idx
    | .copy e => l.idx < e.length ∧ l.output = e.take l.idx
    | .attitude =>
      l.fields.length < 6 ∧ l.idx = 2 * l.fields.length ∧
        (List.range l.fields.length).map (attitudeField l.input) = l.fields.map some

/-- A good state: the ROMs hold what reset put there (10_state.md R20, R22, R23; log 22), the configuration is one of this block,
every request in progress is where its byte steps so far have brought it, every response delivered is the one its request
is owed, and no request has two. -/
structure State.Inv (s : State) : Prop where
  romCrc : s.romCrc = romCrcTable
  romFixed_nonempty : s.romFixed ≠ []
  romFixed_wf : ∀ e ∈ s.romFixed, wfFrame e = true
  layout : CodecLayout.wf s.config.codecSetLayout = true
  inProgress : ∀ l ∈ s.inProgress, l.Consistent s
  responses : ∀ d ∈ s.responses, answer s d.request = .ok d.response
  tickets_unique : (s.responses.map Delivered.ticket ++ s.inProgress.map InFlight.ticket).Nodup
  tickets_used : ∀ t ∈ s.responses.map Delivered.ticket ++ s.inProgress.map InFlight.ticket, t < s.nextTicket

/-- A disciplined host under the configuration's ACKED_COMMANDS and REPLY_TIMEOUT (00_scope.md R7). -/
def disciplinedHost (actions : List HostAction) : Prop :=
  (Session.run HostRules.boot Session.start actions).isSome

end Sys2Proof.Machine
end

