-- ==== Sys2Proof/Certificates/Slice0/Obligations.lean ====
section
/-! DEFINITION. The statements for the provers. `s.deliver i r` is the state in which response `r` to request `i` has reached
the host; what it leaves unchanged is stated by RequestLeavesTheBlockUnchanged. -/

open Sys2Proof Sys2Proof.Machine

/-! ### Requests and their encoding -/

/-- R69, R70: no operand and no bit of the selector is lost. Rests on the operand record of log 3. -/
def Obligations.DecodeOfEncodeIsIdentity : Prop :=
  ∀ i : Instr, decode (encode i) = .ok i

/-- R70: the row a selector matches gives the operation, and it matches no other row. -/
def Obligations.SelectorSelectsOneRow : Prop :=
  ∀ (r : Request) (i : Instr), decode r = .ok i →
    ∃ row ∈ opcodeTable, (r.sel &&& row.mask = row.value ∧ i = row.read r.operands) ∧
      ∀ row' ∈ opcodeTable, r.sel &&& row'.mask = row'.value → row'.value = row.value

/-- R69, R70: each row's selector, written out, with any operands; and the first reserved tag and operation code. -/
def Obligations.SpecSelectorsDecode : Prop :=
  ∀ o : Operands,
    decode ⟨0x000, o⟩ = .ok (.crc16 o.data o.init) ∧
    decode ⟨0x100, o⟩ = .ok (.encodeFixed o.k) ∧
    decode ⟨0x101, o⟩ = .ok (.encodeSetYawPitchSpeed o.yaw o.pitch) ∧
    decode ⟨0x102, o⟩ = .ok (.encodeSetYawPitchAngle o.yaw o.pitch) ∧
    decode ⟨0x103, o⟩ = .ok (.encodeSetUtcTime o.timestamp) ∧
    decode ⟨0x104, o⟩ = .ok (.encodeGetCodecSpec o.stream) ∧
    decode ⟨0x105, o⟩ = .ok (.encodeSetCodecSpec o.stream o.encType o.width o.height o.bitrate) ∧
    decode ⟨0x200, o⟩ = .ok (.decodeAttitude o.data) ∧
    decode ⟨0x106, o⟩ = .error (.reservedCommandTag 6) ∧
    decode ⟨0x300, o⟩ = .error .reservedOp

/-- R206, R123: a reserved `op`, a reserved command tag or an ordinal beyond the table gets no response and no status, at
either level of the machine. The first hypothesis says the word is a 10-bit selector. -/
def Obligations.ReservedRequestsGetNoResponse : Prop :=
  ∀ (s : State) (r : Request) (rest : List HostEvent),
    (s.events = .request r :: rest ∨ s.events = .accept r :: rest) → r.sel &&& 0xFC00 = 0 →
    (selectorOp r.sel = 3 → step s = .refused .reservedOp) ∧
    (selectorOp r.sel = 1 → 6 ≤ (selectorTag r.sel).toNat →
      step s = .refused (.reservedCommandTag (selectorTag r.sel))) ∧
    (selectorOp r.sel = 1 → selectorTag r.sel = 0 → s.romFixed.length ≤ r.operands.k →
      step s = .refused .fixedOrdinalOutOfRange)

/-- The model's choice (log 2): a word with a bit above the selector's ten is no request. -/
def Obligations.NonSelectorsAreRefused : Prop :=
  ∀ (s : State) (r : Request) (rest : List HostEvent),
    (s.events = .request r :: rest ∨ s.events = .accept r :: rest) → r.sel &&& 0xFC00 ≠ 0 →
    step s = .refused .notASelector

/-- A step takes the host's next event: a request that decodes is run by its meaning, or accepted by the byte-serial
engine, in the state without that event (log 6). -/
def Obligations.StepRunsTheDecodedRequest : Prop :=
  ∀ (s : State) (r : Request) (rest : List HostEvent) (i : Instr), decode r = .ok i →
    (s.events = .request r :: rest → step s = exec i { s with events := rest }) ∧
    (s.events = .accept r :: rest → step s = State.accept { s with events := rest } i)

/-- A placed table word is the next request the machine runs. That placing puts it first among the host's events is the
model's choice (log 6), as are the zero operands of such a word (log 3). -/
def Obligations.PlacedWordRunsNext : Prop :=
  ∀ (s : State) (nbits w : Nat) (i : Instr), decodeTableWord nbits w = some i →
    step (s.withFetchWord nbits w) = exec i s

/-! ### CRC16 -/

/-- R21: every entry of the ROM after reset is eight steps of division of `i << 8` by 0x1021. -/
def Obligations.RomCrcEntriesAreEightDivisionSteps : Prop :=
  ∀ i : Fin 256, State.reset.romCrc[i] =
    (fun c : Word => if c.getLsbD 15 then (c <<< 1) ^^^ 0x1021 else c <<< 1)^[8] (BitVec.ofNat 16 i.val <<< 8)

/-- R101: CRC16 completes with status OK and folds each byte, first to last, by
`((acc << 8) & 0xFFFF) ^ ROM_CRC[b ^ acc[15:8]]`; `crc16` names that value in the statements below. The hypothesis is
MAX_CRC_LEN's (R7). -/
def Obligations.Crc16FoldsTheTable : Prop :=
  ∀ (s : State) (data : Bytes) (init : Word), s.config.admitsCrcLength data.length = true →
    exec (.crc16 data init) s = .next (s.deliver (.crc16 data init) ⟨.ok, some (.checksum (crc16 s.romCrc data init))⟩) ∧
    crc16 s.romCrc data init =
      data.foldl (fun (acc : Word) (b : Byte) => (acc <<< 8) ^^^ s.romCrc.toList.getD (b ^^^ acc.extractLsb' 8 8).toNat 0) init

/-- R102: the table-driven step equals eight unreflected single-bit steps, so CRC16 is bit-serial division by 0x1021. -/
def Obligations.Crc16IsBitSerialDivision : Prop :=
  ∀ (s : State) (data : Bytes) (init : Word), s.romCrc = romCrcTable → s.config.admitsCrcLength data.length = true →
    exec (.crc16 data init) s = .next (s.deliver (.crc16 data init) ⟨.ok, some (.checksum
      (data.foldl (fun (acc : Word) (b : Byte) =>
        (fun c : Word => if c.getLsbD 15 then (c <<< 1) ^^^ 0x1021 else c <<< 1)^[8]
          (acc ^^^ ((b.setWidth 16 : Word) <<< 8))) init))⟩)

/-- R100's corner cases and worked example: `L = 0` returns `init` unchanged, under any bound on the length; all-zero data
with `init = 0` returns 0; the checksum of the angle frame. -/
def Obligations.Crc16CornerCases : Prop :=
  (∀ (s : State) (init : Word),
    exec (.crc16 [] init) s = .next (s.deliver (.crc16 [] init) ⟨.ok, some (.checksum init)⟩)) ∧
  (∀ (s : State) (n : Nat), s.romCrc = romCrcTable → s.config.admitsCrcLength n = true →
    exec (.crc16 (List.replicate n 0) 0) s =
      .next (s.deliver (.crc16 (List.replicate n 0) 0) ⟨.ok, some (.checksum 0)⟩)) ∧
  crc16 romCrcTable [0x55, 0x66, 0x01, 0x04, 0x00, 0x00, 0x00, 0x0e, 0x00, 0x82, 0xff, 0xec] 0 = 0xAD8F

/-- R105: two requests, the first result the second's `init`, give the checksum of the whole; the rule's example. -/
def Obligations.Crc16Chains : Prop :=
  (∀ (s : State) (a b : Bytes) (init : Word), s.config.admitsCrcLength (a ++ b).length = true →
    ∃ c d t u v, exec (.crc16 a init) s = .next t ∧ t.lastChecksum = some c ∧
      exec (.crc16 b c) t = .next u ∧ u.lastChecksum = some d ∧
      exec (.crc16 (a ++ b) init) s = .next v ∧ v.lastChecksum = some d) ∧
  crc16 romCrcTable [0x55, 0x66, 0x01, 0x04, 0x00] 0 = 0xB3DA ∧
  crc16 romCrcTable [0x00, 0x00, 0x0e, 0x00, 0x82, 0xff, 0xec] 0xB3DA = 0xAD8F

/-- R106: linearity at `init = 0`, for sequences of equal length; the rule's example. -/
def Obligations.Crc16IsLinear : Prop :=
  (∀ (s : State) (a b : Bytes), s.romCrc = romCrcTable → a.length = b.length →
    s.config.admitsCrcLength a.length = true →
    ∃ c d t u v, exec (.crc16 a 0) s = .next t ∧ t.lastChecksum = some c ∧
      exec (.crc16 b 0) s = .next u ∧ u.lastChecksum = some d ∧
      exec (.crc16 (List.zipWith (· ^^^ ·) a b) 0) s = .next v ∧ v.lastChecksum = some (c ^^^ d)) ∧
  crc16 romCrcTable [0x12, 0x34] 0 = 0x13C6 ∧ crc16 romCrcTable [0xAB, 0xCD] 0 = 0xC965 ∧
  crc16 romCrcTable [0xB9, 0xF9] 0 = 0xDAA3

/-- R107: a sequence followed by its checksum, high byte first, has checksum 0; the two frames of the source, which carry
it low byte first, do not. -/
def Obligations.Crc16Residue : Prop :=
  (∀ (s : State) (m : Bytes), s.romCrc = romCrcTable → s.config.admitsCrcLength (m.length + 2) = true →
    ∃ c t u, exec (.crc16 m 0) s = .next t ∧ t.lastChecksum = some c ∧
      exec (.crc16 (m ++ [(c >>> 8).setWidth 8, c.setWidth 8]) 0) s = .next u ∧ u.lastChecksum = some 0) ∧
  crc16 romCrcTable
    [0x55, 0x66, 0x01, 0x04, 0x00, 0x00, 0x00, 0x0e, 0x00, 0x82, 0xff, 0xec, 0x8f, 0xad] 0 = 0x64A4 ∧
  crc16 romCrcTable [0x55, 0x66, 0x01, 0x02, 0x00, 0x00, 0x00, 0x07, 0x64, 0xec, 0xbd, 0xdf] 0 = 0x21AC

/-- D9, I12: where a realisation bounds the length, a longer input is refused. -/
def Obligations.Crc16BeyondTheBoundIsRefused : Prop :=
  ∀ (s : State) (data : Bytes) (init : Word) (m : Nat), s.config.maxCrcLen = some m → m < data.length →
    exec (.crc16 data init) s = .refused .crcInputTooLong

/-! ### ENCODE -/

/-- R121, R123: the answer is the stored entry, byte for byte; an ordinal beyond the table is refused. -/
def Obligations.FixedReturnsTheStoredEntry : Prop :=
  ∀ (s : State) (k : Nat),
    (∀ h : k < s.romFixed.length,
      exec (.encodeFixed k) s = .next (s.deliver (.encodeFixed k) ⟨.ok, some (.frame s.romFixed[k])⟩)) ∧
    (s.romFixed.length ≤ k → exec (.encodeFixed k) s = .refused .fixedOrdinalOutOfRange)

/-- R122, R23: after reset the table has an entry, and every entry is a frame. -/
def Obligations.ResetFixedTableHoldsFrames : Prop :=
  State.reset.romFixed ≠ [] ∧ ∀ e ∈ State.reset.romFixed, wfFrame e = true

/-- R134: the 12 bytes of the frame. -/
def Obligations.SetYawPitchSpeedFrame : Prop :=
  ∀ (s : State) (yaw pitch : Int),
    let y := if yaw < -100 then -100 else if 100 < yaw then 100 else yaw
    let q := if pitch < -100 then -100 else if 100 < pitch then 100 else pitch
    let p : Bytes := [0x55, 0x66, 0x01, 0x02, 0x00, 0x00, 0x00, 0x07, BitVec.ofInt 8 y, BitVec.ofInt 8 q]
    let c := crc16 s.romCrc p 0
    exec (.encodeSetYawPitchSpeed yaw pitch) s = .next (s.deliver (.encodeSetYawPitchSpeed yaw pitch)
      ⟨.ok, some (.frame (p ++ [c.setWidth 8, (c >>> 8).setWidth 8]))⟩)

/-- R135: the 14 bytes of the frame; the pitch range is not symmetric. -/
def Obligations.SetYawPitchAngleFrame : Prop :=
  ∀ (s : State) (yaw pitch : Int),
    let y := if yaw < -1350 then -1350 else if 1350 < yaw then 1350 else yaw
    let q := if pitch < -900 then -900 else if 250 < pitch then 250 else pitch
    let p : Bytes := [0x55, 0x66, 0x01, 0x04, 0x00, 0x00, 0x00, 0x0E,
      BitVec.ofInt 8 (y / 256), BitVec.ofInt 8 y, BitVec.ofInt 8 (q / 256), BitVec.ofInt 8 q]
    let c := crc16 s.romCrc p 0
    exec (.encodeSetYawPitchAngle yaw pitch) s = .next (s.deliver (.encodeSetYawPitchAngle yaw pitch)
      ⟨.ok, some (.frame (p ++ [c.setWidth 8, (c >>> 8).setWidth 8]))⟩)

/-- R136: the 18 bytes of the frame, for any CMD_ID. -/
def Obligations.SetUtcTimeFrame : Prop :=
  ∀ (s : State) (timestamp : Int),
    let t := if timestamp < 0 then 0 else if 2 ^ 64 - 1 < timestamp then 2 ^ 64 - 1 else timestamp
    let p : Bytes := [0x55, 0x66, 0x01, 0x08, 0x00, 0x00, 0x00, s.config.cmdIdSetUtcTime,
      BitVec.ofInt 8 (t / 2 ^ 56), BitVec.ofInt 8 (t / 2 ^ 48), BitVec.ofInt 8 (t / 2 ^ 40), BitVec.ofInt 8 (t / 2 ^ 32),
      BitVec.ofInt 8 (t / 2 ^ 24), BitVec.ofInt 8 (t / 2 ^ 16), BitVec.ofInt 8 (t / 2 ^ 8), BitVec.ofInt 8 t]
    let c := crc16 s.romCrc p 0
    exec (.encodeSetUtcTime timestamp) s = .next (s.deliver (.encodeSetUtcTime timestamp)
      ⟨.ok, some (.frame (p ++ [c.setWidth 8, (c >>> 8).setWidth 8]))⟩)

/-- R137: the 11 bytes of the frame, for any CMD_ID. -/
def Obligations.GetCodecSpecFrame : Prop :=
  ∀ (s : State) (stream : Int),
    let v : Byte := if stream ≤ 0 then 0 else if stream = 1 then 1 else 2
    let p : Bytes := [0x55, 0x66, 0x01, 0x01, 0x00, 0x00, 0x00, s.config.cmdIdGetCodecSpec, v]
    let c := crc16 s.romCrc p 0
    exec (.encodeGetCodecSpec stream) s = .next (s.deliver (.encodeGetCodecSpec stream)
      ⟨.ok, some (.frame (p ++ [c.setWidth 8, (c >>> 8).setWidth 8]))⟩)

/-- R138: the 18 bytes of the frame under the decided layout (D5), for any CMD_ID. -/
def Obligations.SetCodecSpecFrame : Prop :=
  ∀ (s : State) (stream encType width height bitrate : Int), s.config.codecSetLayout = CodecLayout.default →
    let sat : Int → Int := fun v => if v < 0 then 0 else if 0xFFFF < v then 0xFFFF else v
    let p : Bytes := [0x55, 0x66, 0x01, 0x08, 0x00, 0x00, 0x00, s.config.cmdIdSetCodecSpec,
      if stream ≤ 0 then 0 else if stream = 1 then 1 else 2, if encType ≤ 1 then 1 else 2,
      BitVec.ofInt 8 (sat width / 256), BitVec.ofInt 8 (sat width),
      BitVec.ofInt 8 (sat height / 256), BitVec.ofInt 8 (sat height),
      BitVec.ofInt 8 (sat bitrate / 256), BitVec.ofInt 8 (sat bitrate)]
    let c := crc16 s.romCrc p 0
    exec (.encodeSetCodecSpec stream encType width height bitrate) s =
      .next (s.deliver (.encodeSetCodecSpec stream encType width height bitrate)
        ⟨.ok, some (.frame (p ++ [c.setWidth 8, (c >>> 8).setWidth 8]))⟩)

/-- D5, D4, stated for the parameter CODEC_SET_LAYOUT: the payload is the clamped arguments in the layout's order and
widths, and a layout that makes no payload is refused (log 12, log 23). -/
def Obligations.SetCodecSpecFollowsItsLayout : Prop :=
  ∀ (s : State) (stream encType width height bitrate : Int),
    (CodecLayout.wf s.config.codecSetLayout = true →
      exec (.encodeSetCodecSpec stream encType width height bitrate) s =
        .next (s.deliver (.encodeSetCodecSpec stream encType width height bitrate) ⟨.ok, some (.frame
          (buildFrame s.romCrc s.config.cmdIdSetCodecSpec (s.config.codecSetLayout.flatMap fun f =>
            serField (match f.arg with
              | .stream => max 0 (min stream 2)
              | .encType => max 1 (min encType 2)
              | .width => max 0 (min width (256 ^ f.bytes - 1))
              | .height => max 0 (min height (256 ^ f.bytes - 1))
              | .bitrate => max 0 (min bitrate (256 ^ f.bytes - 1))) f.bytes)))⟩)) ∧
    (CodecLayout.wf s.config.codecSetLayout = false →
      exec (.encodeSetCodecSpec stream encType width height bitrate) s = .refused .malformedCodecLayout)

/-- R141: every admitted command is answered with status OK and a frame that satisfies WF_FRAME. -/
def Obligations.EveryAdmittedCommandGetsAFrame : Prop :=
  ∀ (s : State) (i : Instr), s.Inv → i.opTag.1 = 1 → i.wellFormed s.config s.romFixed.length = true →
    ∃ f, exec i s = .next (s.deliver i ⟨.ok, some (.frame f)⟩) ∧ wfFrame f = true

/-- R73, R141, R175, R201: in a good state the admitted requests are exactly those that are answered. -/
def Obligations.AdmittedRequestsAreTheAnsweredOnes : Prop :=
  ∀ (s : State) (i : Instr), s.Inv →
    (i.wellFormed s.config s.romFixed.length = true ↔ ∃ t, exec i s = .next t)

/-- R67, R133: the frames are exactly what BUILD_FRAME makes of a CMD_ID and at most 255 payload bytes. -/
def Obligations.FramesAreWhatBuildFrameMakes : Prop :=
  ∀ f : Bytes, wfFrame f = true ↔
    ∃ (cmdId : Byte) (payload : Bytes), payload.length ≤ 255 ∧ f = buildFrame romCrcTable cmdId payload

/-- R61 to R64, R66: the length, the fixed bytes and the checksum field of every frame the block emits; a parameterized
command's is at most 18 bytes under the decided layout (D5). -/
def Obligations.EmittedFramesHaveTheirFields : Prop :=
  ∀ (s t : State) (i : Instr), s.Inv → i.opTag.1 = 1 → exec i s = .next t →
    ∃ f n, t.responses = s.responses ++ [⟨s.nextTicket, i, ⟨.ok, some (.frame f)⟩⟩] ∧
      f.take 3 = [0x55, 0x66, 0x01] ∧ f[3]? = some n ∧ (f.drop 4).take 3 = [0x00, 0x00, 0x00] ∧
      f.length = 10 + n.toNat ∧ ((f.drop 8).take (f.length - 10)).length = n.toNat ∧ 10 ≤ f.length ∧ f.length ≤ 265 ∧
      f.drop (f.length - 2) = [(crc16 s.romCrc (f.take (f.length - 2)) 0).setWidth 8,
        (crc16 s.romCrc (f.take (f.length - 2)) 0 >>> 8).setWidth 8] ∧
      (i.opTag.2 ≠ 0 → s.config.codecSetLayout = CodecLayout.default → n.toNat ≤ 8 ∧ f.length ≤ 18)

/-- R130, R143: the clamp and its laws. -/
def Obligations.ClampLaws : Prop :=
  (∀ lo hi v v' : Int, lo ≤ hi →
    clamp v lo hi = min (max v lo) hi ∧
    lo ≤ clamp v lo hi ∧ clamp v lo hi ≤ hi ∧ clamp (clamp v lo hi) lo hi = clamp v lo hi ∧
    (v ≤ v' → clamp v lo hi ≤ clamp v' lo hi) ∧ (v < lo → clamp v lo hi = lo) ∧ (hi < v → clamp v lo hi = hi) ∧
    (lo ≤ v → v ≤ hi → clamp v lo hi = v)) ∧
  clamp (-1351) (-1350) 1350 = -1350 ∧ clamp 1350 (-1350) 1350 = 1350 ∧ clamp (-900) (-900) 250 = -900 ∧
  clamp 251 (-900) 250 = 250 ∧ clamp 101 (-100) 100 = 100

/-- R132, R43: `n` bytes, most significant first, that stand for `v mod 2^(8n)`. -/
def Obligations.SerBeIsBigEndian : Prop :=
  ∀ (v : Int) (n : Nat), (serBe v n).length = n ∧
    (((serBe v n).foldl (fun acc b => 256 * acc + b.toNat) 0 : Nat) : Int) = v % 2 ^ (8 * n)

/-! ### DECODE_ATTITUDE -/

/-- R171: the integer a field stands for. -/
def Obligations.LeS16IsLittleEndianSigned : Prop :=
  ∀ b0 b1 : Byte,
    signed16 (leS16 b0 b1) =
      (if b0.toNat + 256 * b1.toNat < 0x8000 then ((b0.toNat + 256 * b1.toNat : Nat) : Int)
        else ((b0.toNat + 256 * b1.toNat : Nat) : Int) - 0x10000) ∧
    (leS16 b0 b1).toInt = signed16 (leS16 b0 b1)

/-- R172, R173, R200: fewer than 12 bytes fail; 12 decode; more fail under `reject` and decode their first 12 under
`prefix`. Field `j` has byte `2j` low and byte `2j+1` high. -/
def Obligations.DecodeAttitudeByLength : Prop :=
  ∀ (s : State) (data : Bytes),
    (data.length < 12 ∨ (12 < data.length ∧ s.config.attLongInput = .reject) →
      exec (.decodeAttitude data) s = .next (s.deliver (.decodeAttitude data) ⟨.malformedReply, none⟩)) ∧
    (data.length = 12 ∨ (12 < data.length ∧ s.config.attLongInput = .firstTwelve) →
      exec (.decodeAttitude data) s = .next (s.deliver (.decodeAttitude data) ⟨.ok, some (.attitude
        { yaw := data.getD 1 0 ++ data.getD 0 0
          pitch := data.getD 3 0 ++ data.getD 2 0
          roll := data.getD 5 0 ++ data.getD 4 0
          vYaw := data.getD 7 0 ++ data.getD 6 0
          vPitch := data.getD 9 0 ++ data.getD 8 0
          vRoll := data.getD 11 0 ++ data.getD 10 0 })⟩))

/-! ### Responses and frames -/

/-- R26, R201: which status and which kind of result each operation's response has; the status codes. -/
def Obligations.ResponseFitsItsOperation : Prop :=
  Status.ok.code = 0 ∧ Status.malformedReply.code = 1 ∧
  ∀ (s t : State) (i : Instr), exec i s = .next t →
    ∃ r, t.responses = s.responses ++ [⟨s.nextTicket, i, r⟩] ∧
      (i.opTag.1 = 0 → ∃ c, r = ⟨.ok, some (.checksum c)⟩) ∧
      (i.opTag.1 = 1 → ∃ f, r = ⟨.ok, some (.frame f)⟩) ∧
      (i.opTag.1 = 2 → (∃ a, r = ⟨.ok, some (.attitude a)⟩) ∨ r = ⟨.malformedReply, none⟩)

/-- The frame of every request, of all eight constructors (R20, R48, R202): one response record is added and the ticket
counter moves on (log 7); the ROMs, the configuration, the requests in progress, what the host does next and the responses
already delivered are unchanged. There is no addressed memory (R40, log 5). -/
def Obligations.RequestLeavesTheBlockUnchanged : Prop :=
  ∀ (s t : State) (i : Instr), exec i s = .next t →
    t.romCrc = s.romCrc ∧ t.romFixed = s.romFixed ∧ t.config = s.config ∧ t.inProgress = s.inProgress ∧
    t.events = s.events ∧ t.nextTicket = s.nextTicket + 1 ∧
    ∃ r, t.responses = s.responses ++ [⟨s.nextTicket, i, r⟩]

/-- R103, R142, R175, R52: the response depends on the request, the configuration and the ROMs alone, whatever other
requests are in progress and whatever was answered before. -/
def Obligations.ResponseDependsOnlyOnRequestAndTables : Prop :=
  ∀ (s u t : State) (i : Instr), s.config = u.config → s.romCrc = u.romCrc → s.romFixed = u.romFixed →
    exec i s = .next t →
    ∃ r v, exec i u = .next v ∧ t.responses = s.responses ++ [⟨s.nextTicket, i, r⟩] ∧
      v.responses = u.responses ++ [⟨u.nextTicket, i, r⟩]

/-- R49, R142, R125: the same request twice gets the same response twice. -/
def Obligations.RepeatedRequestGetsTheSameResponse : Prop :=
  ∀ (s t : State) (i : Instr), exec i s = .next t →
    ∃ r u, exec i t = .next u ∧
      u.responses = s.responses ++ [⟨s.nextTicket, i, r⟩, ⟨s.nextTicket + 1, i, r⟩]

/-! ### The machine: reset, invariants, the byte-serial engine -/

/-- R28, R230: what reset leaves. The ticket counter and the empty list of events are the model's (log 6, log 7). -/
def Obligations.ResetStateHoldsTheRomsAndIsIdle : Prop :=
  State.reset.romCrc.toList = romCrcRows0 ++ romCrcRows1 ++ romCrcRows2 ++ romCrcRows3 ∧
  State.reset.romFixed = Config.fixedTable.contents ∧ State.reset.phase = .idle ∧
  State.reset.inProgress = [] ∧ State.reset.responses = []

/-- R230: reset asserted abandons every request in progress, which then gets no response from any further step; the ROMs
and the configuration stay. That delivered responses, the host's events and the ticket counter stay is the model's
choice (log 16). -/
def Obligations.AssertedResetAbandonsRequests : Prop :=
  ∀ (s : State) (rest : List HostEvent), s.events = .reset :: rest →
    ∃ t, step s = .next t ∧ t.phase = .idle ∧ t.inProgress = [] ∧ t.romCrc = s.romCrc ∧ t.romFixed = s.romFixed ∧
      t.config = s.config ∧ t.responses = s.responses ∧ t.nextTicket = s.nextTicket ∧ t.events = rest ∧
      ∀ ticket, t.advance ticket = t

/-- R20, R22, R23: no step of any kind writes a ROM or the configuration. -/
def Obligations.NoStepWritesTheRoms : Prop :=
  ∀ s t : State, step s = .next t → t.romCrc = s.romCrc ∧ t.romFixed = s.romFixed ∧ t.config = s.config

/-- The invariant holds at reset. -/
def Obligations.ResetIsGood : Prop := State.reset.Inv

/-- The invariant of Safety.lean is kept by every step from every good state: the ROMs keep their contents (R20), every
request in progress is where its byte steps have brought it (R25, R109, R144, R176), and every response delivered, under
any interleaving, is the one its request would get alone (R52, R109). -/
def Obligations.EveryStepKeepsTheMachineGood : Prop :=
  ∀ s t : State, s.Inv → step s = .next t → t.Inv

/-- R109: acceptance of crc16. -/
def Obligations.Crc16Acceptance : Prop :=
  ∀ (s : State) (r : Request) (rest : List HostEvent) (data : Bytes) (init : Word),
    s.events = .accept r :: rest → decode r = .ok (.crc16 data init) → s.config.admitsCrcLength data.length = true →
    (data = [] → step s = .next (State.deliver { s with events := rest } (.crc16 data init)
      ⟨.ok, some (.checksum init)⟩)) ∧
    (data ≠ [] → ∃ t l, step s = .next t ∧ t.inProgress = s.inProgress ++ [l] ∧ t.responses = s.responses ∧
      t.nextTicket = s.nextTicket + 1 ∧ l.ticket = s.nextTicket ∧ l.request = .crc16 data init ∧
      l.phase = .busy ∧ l.input = data ∧ l.acc = init ∧ l.idx = 0)

/-- R109: one byte step of the stepped crc16 request. That the step with the last byte also delivers the response and ends
the request is the model's reading (DEDUCED, log 18). What it leaves of the other requests is ByteStepsOfTwoRequestsCommute's. -/
def Obligations.Crc16ByteStep : Prop :=
  ∀ (s : State) (ticket : Nat) (rest : List HostEvent) (l : InFlight) (b : Byte),
    s.events = .advance ticket :: rest → s.inFlight? ticket = some l → l.work = .checksum →
    l.input[l.idx]? = some b →
    (l.idx + 1 = l.input.length → ∃ t, step s = .next t ∧
      t.inProgress = s.inProgress.filter (fun m => m.ticket ≠ ticket) ∧
      t.responses = s.responses ++
        [⟨ticket, l.request, ⟨.ok, some (.checksum (crcStep s.romCrc l.acc b))⟩⟩]) ∧
    (l.idx + 1 ≠ l.input.length → ∃ t, step s = .next t ∧ t.responses = s.responses ∧
      t.inFlight? ticket = some { l with acc := crcStep s.romCrc l.acc b, idx := l.idx + 1 })

/-- R109, R144, R176, R238: the byte-serial engine, given exactly the byte steps its request takes, gives the very state
the transaction gives, and refuses what it refuses. That the last byte step delivers the response is log 18. -/
def Obligations.SerialRunEqualsTransaction : Prop :=
  ∀ (s : State) (r : Request) (rest : List HostEvent) (i : Instr), s.Inv → decode r = .ok i →
    s.events = .accept r :: (List.replicate (byteSteps s i) (.advance s.nextTicket) ++ rest) →
    runSteps (byteSteps s i + 1) s = exec i { s with events := rest }

/-- R48, R109, R144, R176: before its last byte step a request has delivered nothing, and it is still in progress. That the last one
delivers the response is log 18. -/
def Obligations.NothingIsDeliveredBeforeTheLastByteStep : Prop :=
  ∀ (s t : State) (r : Request) (rest : List HostEvent) (i : Instr) (n : Nat), s.Inv → decode r = .ok i →
    exec i s = .next t → n < byteSteps s i →
    s.events = .accept r :: (List.replicate n (.advance s.nextTicket) ++ rest) →
    ∃ u, runSteps (n + 1) s = .next u ∧ u.responses = s.responses ∧
      (u.inFlight? s.nextTicket).isSome = true

/-- R238: the number of byte steps of each request. -/
def Obligations.ByteStepCounts : Prop :=
  ∀ (s : State), s.Inv →
    (∀ data init, byteSteps s (.crc16 data init) = data.length) ∧
    (∀ (i : Instr) (f : Bytes), i.opTag.1 = 1 → exec i s = .next (s.deliver i ⟨.ok, some (.frame f)⟩) →
      byteSteps s i = f.length ∧ ∃ n, f[3]? = some n ∧ byteSteps s i = 10 + n.toNat) ∧
    (∀ (data : Bytes) (a : Attitude),
      exec (.decodeAttitude data) s = .next (s.deliver (.decodeAttitude data) ⟨.ok, some (.attitude a)⟩) →
      byteSteps s (.decodeAttitude data) = 6) ∧
    (∀ data, exec (.decodeAttitude data) s = .next (s.deliver (.decodeAttitude data) ⟨.malformedReply, none⟩) →
      byteSteps s (.decodeAttitude data) = 0)

/-- R52, R211, R238: under any interleaving of byte steps, a request in progress that gets as many byte steps of its own as
its request takes has been answered, with the response it would get alone. That the last of them delivers the response is
log 18; that a schedule is a list of events is log 24. -/
def Obligations.EveryInterleavingAnswersTheRequest : Prop :=
  ∀ (s : State) (l : InFlight) (schedule : List Nat) (rest : List HostEvent), s.Inv → l ∈ s.inProgress →
    s.events = schedule.map HostEvent.advance ++ rest → byteSteps s l.request ≤ schedule.count l.ticket →
    ∃ u r, runSteps schedule.length s = .next u ∧ exec l.request s = .next (s.deliver l.request r) ∧
      (⟨l.ticket, l.request, r⟩ : Delivered) ∈ u.responses

/-- R52: byte steps of two requests in either order give the same state, but for the order in which responses arrive. -/
def Obligations.ByteStepsOfTwoRequestsCommute : Prop :=
  ∀ (s : State) (a b : Nat), a ≠ b →
    ((s.advance a).advance b).inProgress = ((s.advance b).advance a).inProgress ∧
    ((s.advance a).advance b).responses.Perm ((s.advance b).advance a).responses ∧
    ((s.advance a).advance b).nextTicket = ((s.advance b).advance a).nextTicket ∧
    ((s.advance a).advance b).events = ((s.advance b).advance a).events

/-! ### The host's side -/

/-- R75: check_frame says false of fewer than two bytes; of any other sequence it makes one CRC16 request and says true
exactly where the sequence ends in the checksum of the rest, low byte first. -/
def Obligations.CheckFrameComparesTheChecksum : Prop :=
  ∀ (s : State) (f : Bytes),
    (f.length < 2 → checkFrame f s = some (false, s)) ∧
    (2 ≤ f.length → s.config.admitsCrcLength (f.length - 2) = true →
      ∃ ok t, exec (.crc16 (f.take (f.length - 2)) 0) s = .next t ∧ checkFrame f s = some (ok, t) ∧
        (ok = true ↔ ∃ p, f = p ++ [(crc16 s.romCrc p 0).setWidth 8, (crc16 s.romCrc p 0 >>> 8).setWidth 8]))

/-- R75, R67: in a good state check_frame says true of every frame. -/
def Obligations.CheckFrameAcceptsEveryFrame : Prop :=
  ∀ (s : State) (f : Bytes), s.Inv → s.config.admitsCrcLength (f.length - 2) = true → wfFrame f = true →
    ∃ t, checkFrame f s = some (true, t)

/-- R76: append_crc makes one CRC16 request and appends its checksum; for a frame's prefix it is step 6 of BUILD_FRAME. -/
def Obligations.AppendCrcCompletesAFrame : Prop :=
  ∀ (s : State) (p : Bytes), s.config.admitsCrcLength p.length = true →
    ∃ t, exec (.crc16 p 0) s = .next t ∧
      appendCrc p s = some (p ++ [(crc16 s.romCrc p 0).setWidth 8, (crc16 s.romCrc p 0 >>> 8).setWidth 8], t) ∧
      ∀ (cmdId : Byte) (payload : Bytes), p = framePrefix cmdId payload →
        appendCrc p s = some (buildFrame s.romCrc cmdId payload, t)

/-- R204: zero bytes sent or received, and a failure of the transport, are TransportError; an expired wait is Timeout;
anything else is neither. -/
def Obligations.TransportReportsMeanTheirConditions : Prop :=
  (∀ n, SendResult.outcome (.sent n) = if n = 0 then .error .transportError else .ok n) ∧
  SendResult.outcome .transportError = .error .transportError ∧
  (∀ received : Bytes, ReceiveResult.outcome (.bytes received) =
    if received = [] then .error .transportError else .ok received) ∧
  ReceiveResult.outcome .transportError = .error .transportError ∧
  ReceiveResult.outcome .timeout = .error .timeout

/-- R235, in the host discipline of Session.lean (log 21): a disciplined host never awaits two replies at once; sending an
acknowledged command while one is awaited breaks the discipline, whatever the send reports. -/
def Obligations.DisciplinedHostAwaitsOneReply : Prop :=
  (∀ (r : HostRules) (actions : List HostAction) (h : Session),
    Session.run r Session.start actions = some h → h.awaiting.length ≤ 1) ∧
  (∀ (r : HostRules) (h : Session) (c : Instr) (result : SendResult), h.awaiting ≠ [] → r.acked c = true →
    h.act r (.send c result) = none)

/-- R212, in the host discipline of Session.lean (log 21): a disciplined host awaits a reply only for an acknowledged and
admitted command and no longer than REPLY_TIMEOUT in all; a receive with nothing awaited, or beyond that bound, breaks the
discipline, whatever it reports. That several receives share one bound is log 27. -/
def Obligations.DisciplinedHostWaitsOnlyForAckedCommands : Prop :=
  (∀ (r : HostRules) (actions : List HostAction) (h : Session),
    Session.run r Session.start actions = some h →
    ∀ e ∈ h.awaiting, r.acked e.command = true ∧ r.admitted e.command = true ∧ e.command.opTag.1 = 1 ∧
      e.waited ≤ r.replyTimeout) ∧
  (∀ (r : HostRules) (h : Session) (timeout : Nat) (result : ReceiveResult),
    (h.awaiting = [] → h.act r (.receive timeout result) = none) ∧
    (∀ e, h.awaiting = [e] → r.replyTimeout < e.waited + timeout → h.act r (.receive timeout result) = none))

/-- R235, in the host discipline of Session.lean (log 21): an exchange ends when its reply arrives or its timeout expires;
a TransportError, zero bytes received among them, and every other action leave it awaiting. That a failed receive leaves it
awaiting with its whole time counted as waited, and that all receives of one exchange share one bound (the hypothesis), is the
model's choice (DESIGN CHOICE, log 27). -/
def Obligations.ExchangeEndsAtReplyOrTimeout : Prop :=
  ∀ (r : HostRules) (h : Session) (e : Exchange) (timeout : Nat), h.awaiting = [e] →
    e.waited + timeout ≤ r.replyTimeout →
    (∀ received : Bytes, received ≠ [] → ∃ g, h.act r (.receive timeout (.bytes received)) = some g ∧
      g.awaiting = [] ∧ g.ended = h.ended ++ [(e.command, .reply received)] ∧ g.conditions = h.conditions) ∧
    (∃ g, h.act r (.receive timeout .timeout) = some g ∧ g.awaiting = [] ∧
      g.ended = h.ended ++ [(e.command, .unconfirmed)] ∧ g.conditions = h.conditions ++ [(e.command, .timeout)]) ∧
    (∀ result : ReceiveResult, result = .transportError ∨ result = .bytes [] →
      ∃ g, h.act r (.receive timeout result) = some g ∧ g.awaiting = [⟨e.command, e.waited + timeout⟩] ∧
        g.ended = h.ended ∧ g.conditions = h.conditions ++ [(e.command, .transportError)]) ∧
    (∀ (g : Session) (i : Instr), h.act r (.request i) = some g → g = h) ∧
    (∀ (g : Session) (c : Instr) (result : SendResult), h.act r (.send c result) = some g →
      g.awaiting = [e] ∧ g.ended = h.ended)

/-- R212, R170, in the host discipline of Session.lean (log 21): a disciplined host decodes only the payload of a reply it
has received. Where the payload stands in a reply is open (log 28). -/
def Obligations.DisciplinedHostDecodesReplyPayloads : Prop :=
  ∀ (r : HostRules) (actions : List HostAction) (h g : Session) (data : Bytes),
    Session.run r Session.start actions = some h → h.act r (.request (.decodeAttitude data)) = some g →
    ∃ c received, (c, ExchangeEnd.reply received) ∈ h.ended ∧ received ≠ [] ∧ r.acked c = true ∧
      r.replyPayload received = data

/-- R212, R141, R201: in a good state every request a disciplined host issues is answered, a crc16 one within MAX_CRC_LEN.
The duty to name only admitted commands is the rules' `admitted`, here that of the machine's own tables. -/
def Obligations.DisciplinedRequestsAreAnswered : Prop :=
  ∀ (s : State) (r : HostRules) (h g : Session) (i : Instr), s.Inv →
    (∀ j, r.admitted j = j.wellFormed s.config s.romFixed.length) →
    (∀ data init, i = .crc16 data init → s.config.admitsCrcLength data.length = true) →
    h.act r (.request i) = some g → ∃ t, exec i s = .next t

/-- R213, in the host discipline of Session.lean (log 21): a wait that expires within REPLY_TIMEOUT ends its exchange as
send-without-confirmation, and asks nothing of the block. That all receives of one exchange share the bound (the hypothesis)
is the model's choice (DESIGN CHOICE, log 27). -/
def Obligations.ExpiredWaitIsSendWithoutConfirmation : Prop :=
  ∀ (r : HostRules) (h : Session) (e : Exchange) (timeout : Nat), h.awaiting = [e] →
    e.waited + timeout ≤ r.replyTimeout →
    (∃ g, h.act r (.receive timeout .timeout) = some g ∧ g.awaiting = [] ∧
      g.ended = h.ended ++ [(e.command, .unconfirmed)]) ∧
    HostAction.event? (.receive timeout .timeout) = none
end

