-- ==== Sys2Proof/Laws/Checksum.lean ====
section
/-! SUPPORT. CRC16 as a left fold: its value on the empty sequence, on one more byte at either end, and on a sequence in two
pieces. -/

namespace Sys2Proof.Machine

@[simp] theorem crc16_nil (rom : RomCrc) (init : Word) : crc16 rom [] init = init := rfl

@[simp] theorem crc16_cons (rom : RomCrc) (b : Byte) (bs : Bytes) (init : Word) :
    crc16 rom (b :: bs) init = crc16 rom bs (crcStep rom init b) := rfl

theorem crc16_append (rom : RomCrc) (a b : Bytes) (init : Word) :
    crc16 rom (a ++ b) init = crc16 rom b (crc16 rom a init) := by simp [crc16]

theorem crc16_snoc (rom : RomCrc) (a : Bytes) (b : Byte) (init : Word) :
    crc16 rom (a ++ [b]) init = crcStep rom (crc16 rom a init) b := by simp [crc16]

/-- One byte step of CRC16 over the bytes taken so far. -/
theorem crc16_take_succ (rom : RomCrc) (a : Bytes) (n : Nat) (init : Word) (b : Byte) (h : a[n]? = some b) :
    crc16 rom (a.take (n + 1)) init = crcStep rom (crc16 rom (a.take n) init) b := by
  rw [List.take_add_one, h]
  exact crc16_snoc rom _ b init

end Sys2Proof.Machine
end

