-- ==== Sys2Proof/Laws/Operands.lean ====
section
/-! SUPPORT. Lengths of serialized fields, and the buffer accesses: a read after a write. -/

namespace Sys2Proof.Machine

@[simp] theorem ser1_length (v : Int) : (ser1 v).length = 1 := rfl

@[simp] theorem serBe_length (v : Int) (n : Nat) : (serBe v n).length = n := by simp [serBe]

@[simp] theorem serField_length (v : Int) (n : Nat) : (serField v n).length = n := by
  unfold serField
  split
  · next h => simp [h]
  · simp

/-- Writing the byte just past a buffer's end appends it. -/
theorem memWrite_at_end (buf : Bytes) (v : Byte) : memWrite buf buf.length v = buf ++ [v] := by
  simp [memWrite]

/-- A byte written reads back. -/
theorem memRead_memWrite_same (buf : Bytes) (i : Nat) (v : Byte) (h : i ≤ buf.length) :
    memRead (memWrite buf i v) i = some v := by
  simp [memRead, memWrite, Nat.min_eq_left h]

/-- A write leaves every other byte of the buffer alone. -/
theorem memRead_memWrite_other (buf : Bytes) (i j : Nat) (v : Byte) (h : i ≤ buf.length) (hj : j ≠ i)
    (hb : j < buf.length) : memRead (memWrite buf i v) j = memRead buf j := by
  unfold memRead memWrite
  rcases Nat.lt_or_gt_of_ne hj with hlt | hgt
  · rw [List.getElem?_append_left (by simp; omega), List.getElem?_take_of_lt hlt]
  · rw [List.getElem?_append_right (by simp; omega)]
    obtain ⟨k, rfl⟩ : ∃ k, j = i + 1 + k := ⟨j - (i + 1), by omega⟩
    have : i + 1 + k - (List.take i buf).length = k + 1 := by simp; omega
    rw [this, List.getElem?_cons_succ, List.getElem?_drop]

end Sys2Proof.Machine
end

