-- ==== Sys2Proof/Laws/Frame.lean ====
section
/-! SUPPORT. Lengths of frames and payloads (30_encoding.md R61, R71). -/

namespace Sys2Proof.Machine

@[simp] theorem checksumBytes_length (c : Word) : (checksumBytes c).length = 2 := rfl

@[simp] theorem framePrefix_length (cmdId : Byte) (payload : Bytes) :
    (framePrefix cmdId payload).length = 8 + payload.length := by
  simp [framePrefix]; omega

@[simp] theorem withChecksum_length (rom : RomCrc) (p : Bytes) : (withChecksum rom p).length = p.length + 2 := by
  simp [withChecksum]

/-- A frame's length is `10 + DATA_LEN` (R61). -/
@[simp] theorem buildFrame_length (rom : RomCrc) (cmdId : Byte) (payload : Bytes) :
    (buildFrame rom cmdId payload).length = 10 + payload.length := by
  simp [buildFrame]; omega

@[simp] theorem speedPayload_length (yaw pitch : Int) : (speedPayload yaw pitch).length = 2 := rfl

@[simp] theorem anglePayload_length (yaw pitch : Int) : (anglePayload yaw pitch).length = 4 := by simp [anglePayload]

@[simp] theorem utcPayload_length (timestamp : Int) : (utcPayload timestamp).length = 8 := by simp [utcPayload]

@[simp] theorem getCodecPayload_length (stream : Int) : (getCodecPayload stream).length = 1 := rfl

/-- The payload of Set codec spec takes the layout's bytes. -/
@[simp] theorem setCodecPayload_length (l : CodecLayout) (a : CodecArgs) :
    (setCodecPayload l a).length = CodecLayout.dataLen l := by
  induction l with
  | nil => rfl
  | cons f l ih =>
    simp only [setCodecPayload, CodecLayout.dataLen, List.flatMap_cons, List.length_append, serField_length, List.map_cons,
      List.sum_cons] at ih ⊢
    rw [ih]

end Sys2Proof.Machine
end

