-- ==== Sys2Proof/Laws/State.lean ====
section
/-! SUPPORT. One lemma per field and update of the state. -/

namespace Sys2Proof.Machine

section Deliver
variable (s : State) (i : Instr) (r : Response)

@[simp] theorem State.deliver_config : (s.deliver i r).config = s.config := rfl
@[simp] theorem State.deliver_romCrc : (s.deliver i r).romCrc = s.romCrc := rfl
@[simp] theorem State.deliver_romFixed : (s.deliver i r).romFixed = s.romFixed := rfl
@[simp] theorem State.deliver_inProgress : (s.deliver i r).inProgress = s.inProgress := rfl
@[simp] theorem State.deliver_responses :
    (s.deliver i r).responses = s.responses ++ [⟨s.nextTicket, i, r⟩] := rfl
@[simp] theorem State.deliver_nextTicket : (s.deliver i r).nextTicket = s.nextTicket + 1 := rfl
@[simp] theorem State.deliver_events : (s.deliver i r).events = s.events := rfl

end Deliver

section Reset
variable (s : State)

@[simp] theorem State.assertReset_config : s.assertReset.config = s.config := rfl
@[simp] theorem State.assertReset_romCrc : s.assertReset.romCrc = s.romCrc := rfl
@[simp] theorem State.assertReset_romFixed : s.assertReset.romFixed = s.romFixed := rfl
@[simp] theorem State.assertReset_inProgress : s.assertReset.inProgress = [] := rfl
@[simp] theorem State.assertReset_responses : s.assertReset.responses = s.responses := rfl
@[simp] theorem State.assertReset_nextTicket : s.assertReset.nextTicket = s.nextTicket := rfl
@[simp] theorem State.assertReset_events : s.assertReset.events = s.events := rfl

end Reset

@[simp] theorem State.reset_config : State.reset.config = Config.boot := rfl
@[simp] theorem State.reset_romCrc : State.reset.romCrc = romCrcTable := rfl
@[simp] theorem State.reset_romFixed : State.reset.romFixed = Config.fixedTable.contents := rfl
@[simp] theorem State.reset_inProgress : State.reset.inProgress = [] := rfl
@[simp] theorem State.reset_responses : State.reset.responses = [] := rfl
@[simp] theorem State.reset_nextTicket : State.reset.nextTicket = 0 := rfl
@[simp] theorem State.reset_events : State.reset.events = [] := rfl

@[simp] theorem State.withFetchWord_events (s : State) (n w : Nat) :
    (s.withFetchWord n w).events = .request (requestOfWord w) :: s.events := rfl

end Sys2Proof.Machine
end

