-- ==== Sys2Proof/Laws/Ops.lean ====
section
/-! SUPPORT. What completing a request can do, and every meaning as one completion. -/

namespace Sys2Proof.Machine

/-- Everything `complete` can do when it answers a next state: deliver the one response. -/
theorem State.complete_next {s t : State} {i : Instr} {a : Except Refusal Response} (h : s.complete i a = .next t) :
    ∃ r, a = .ok r ∧ t = s.deliver i r := by
  cases a with
  | error e => simp [State.complete] at h
  | ok r => exact ⟨r, rfl, by simpa [State.complete] using h.symm⟩

/-- Everything `complete` can do when it refuses. -/
theorem State.complete_refused {s : State} {i : Instr} {a : Except Refusal Response} {e : Refusal}
    (h : s.complete i a = .refused e) : a = .error e := by
  cases a with
  | error e' => simpa [State.complete] using h
  | ok r => simp [State.complete] at h

/-- Every meaning delivers the answer its request is owed, or refuses the request. -/
theorem exec_eq_complete (i : Instr) (s : State) : exec i s = s.complete i (answer s i) := by cases i <;> rfl

/-- Everything a meaning can do when it answers a next state. -/
theorem exec_next {i : Instr} {s t : State} (h : exec i s = .next t) :
    ∃ r, answer s i = .ok r ∧ t = s.deliver i r := by
  rw [exec_eq_complete] at h
  exact State.complete_next h

/-- No meaning faults. -/
theorem exec_ne_fault (i : Instr) (s : State) (f : Fault) : exec i s ≠ .fault f := by cases f

end Sys2Proof.Machine
end

