-- ==== Sys2Proof/Laws/PerInstr.lean ====
section
/-! SUPPORT. Families of statements made for every constructor of Instr. -/

namespace Sys2Proof.Laws.Selector

/-- The request record of an instruction is selected by exactly one row of the opcode table (30_encoding.md R70). -/
def Statement (i : Instr) : Prop := (opcodeTable.filter fun row => row.selects (encode i).sel).length = 1

theorem crc16 (data : Bytes) (init : Word) : Statement (.crc16 data init) := by
  show (opcodeTable.filter fun row => row.selects (selectorOf 0 0)).length = 1
  decide
theorem encodeFixed (k : Nat) : Statement (.encodeFixed k) := by
  show (opcodeTable.filter fun row => row.selects (selectorOf 1 0)).length = 1
  decide
theorem encodeSetYawPitchSpeed (yaw pitch : Int) : Statement (.encodeSetYawPitchSpeed yaw pitch) := by
  show (opcodeTable.filter fun row => row.selects (selectorOf 1 1)).length = 1
  decide
theorem encodeSetYawPitchAngle (yaw pitch : Int) : Statement (.encodeSetYawPitchAngle yaw pitch) := by
  show (opcodeTable.filter fun row => row.selects (selectorOf 1 2)).length = 1
  decide
theorem encodeSetUtcTime (timestamp : Int) : Statement (.encodeSetUtcTime timestamp) := by
  show (opcodeTable.filter fun row => row.selects (selectorOf 1 3)).length = 1
  decide
theorem encodeGetCodecSpec (stream : Int) : Statement (.encodeGetCodecSpec stream) := by
  show (opcodeTable.filter fun row => row.selects (selectorOf 1 4)).length = 1
  decide
theorem encodeSetCodecSpec (stream encType width height bitrate : Int) :
    Statement (.encodeSetCodecSpec stream encType width height bitrate) := by
  show (opcodeTable.filter fun row => row.selects (selectorOf 1 5)).length = 1
  decide
theorem decodeAttitude (data : Bytes) : Statement (.decodeAttitude data) := by
  show (opcodeTable.filter fun row => row.selects (selectorOf 2 0)).length = 1
  decide

end Sys2Proof.Laws.Selector
end

