-- ==== Sys2Proof/Laws/Serial.lean ====
section
/-! SUPPORT. What the byte-serial step model can do: a byte step, an acceptance, an advance. -/

namespace Sys2Proof.Machine

section ByteStep
variable (rom : RomCrc) (l : InFlight)

@[simp] theorem byteStep_ticket : (byteStep rom l).ticket = l.ticket := by unfold byteStep; (repeat' split) <;> rfl
@[simp] theorem byteStep_request : (byteStep rom l).request = l.request := by unfold byteStep; (repeat' split) <;> rfl
@[simp] theorem byteStep_work : (byteStep rom l).work = l.work := by unfold byteStep; (repeat' split) <;> simp_all
@[simp] theorem byteStep_phase : (byteStep rom l).phase = l.phase := by unfold byteStep; (repeat' split) <;> rfl
@[simp] theorem byteStep_input : (byteStep rom l).input = l.input := by unfold byteStep; (repeat' split) <;> rfl

end ByteStep

/-- Everything an acceptance can do when it answers a next state. -/
theorem State.accept_next {s t : State} {i : Instr} (h : s.accept i = .next t) :
    (∃ r, launch s i = .answered r ∧ t = s.deliver i r) ∨
    (∃ work input acc r, launch s i = .started work input acc ∧
      (InFlight.start s.nextTicket i work input acc).response = some r ∧ t = s.deliver i r) ∨
    (∃ work input acc, launch s i = .started work input acc ∧
      (InFlight.start s.nextTicket i work input acc).response = none ∧
      t = { s with
        inProgress := s.inProgress ++ [InFlight.start s.nextTicket i work input acc]
        nextTicket := s.nextTicket + 1 }) := by
  unfold State.accept at h
  split at h
  · cases h
  · next r hl => cases h; exact .inl ⟨r, hl, rfl⟩
  · next work input acc hl =>
    simp only at h
    split at h
    · next r hr => cases h; exact .inr (.inl ⟨work, input, acc, r, hl, hr, rfl⟩)
    · next hr => cases h; exact .inr (.inr ⟨work, input, acc, hl, hr, rfl⟩)

/-- Everything an advance can do. -/
theorem State.advance_cases (s : State) (ticket : Nat) :
    (s.inFlight? ticket = none ∧ s.advance ticket = s) ∨
    (∃ l r, s.inFlight? ticket = some l ∧ (byteStep s.romCrc l).response = some r ∧
      s.advance ticket = { s with
        inProgress := s.inProgress.filter fun m => m.ticket != ticket
        responses := s.responses ++ [⟨l.ticket, l.request, r⟩] }) ∨
    (∃ l, s.inFlight? ticket = some l ∧ (byteStep s.romCrc l).response = none ∧
      s.advance ticket = { s with
        inProgress := s.inProgress.map fun m => if m.ticket = ticket then byteStep s.romCrc l else m }) := by
  unfold State.advance
  split
  · next h => exact .inl ⟨h, rfl⟩
  · next l h =>
    simp only
    split
    · next r hr => exact .inr (.inl ⟨l, r, h, by simpa using hr, by simp⟩)
    · next hr => exact .inr (.inr ⟨l, h, by simpa using hr, rfl⟩)

/-- The request found under a ticket is in progress, has that ticket and is BUSY. -/
theorem State.inFlight?_some {s : State} {ticket : Nat} {l : InFlight} (h : s.inFlight? ticket = some l) :
    l ∈ s.inProgress ∧ l.ticket = ticket ∧ l.phase = .busy := by
  have hp := List.find?_some h
  simp only [Bool.and_eq_true, beq_iff_eq] at hp
  exact ⟨List.mem_of_find?_eq_some h, hp.1, hp.2⟩

@[simp] theorem State.advance_config (s : State) (t : Nat) : (s.advance t).config = s.config := by
  obtain ⟨-, h⟩ | ⟨l, r, -, -, h⟩ | ⟨l, -, -, h⟩ := s.advance_cases t <;> rw [h]
@[simp] theorem State.advance_romCrc (s : State) (t : Nat) : (s.advance t).romCrc = s.romCrc := by
  obtain ⟨-, h⟩ | ⟨l, r, -, -, h⟩ | ⟨l, -, -, h⟩ := s.advance_cases t <;> rw [h]
@[simp] theorem State.advance_romFixed (s : State) (t : Nat) : (s.advance t).romFixed = s.romFixed := by
  obtain ⟨-, h⟩ | ⟨l, r, -, -, h⟩ | ⟨l, -, -, h⟩ := s.advance_cases t <;> rw [h]
@[simp] theorem State.advance_nextTicket (s : State) (t : Nat) : (s.advance t).nextTicket = s.nextTicket := by
  obtain ⟨-, h⟩ | ⟨l, r, -, -, h⟩ | ⟨l, -, -, h⟩ := s.advance_cases t <;> rw [h]
@[simp] theorem State.advance_events (s : State) (t : Nat) : (s.advance t).events = s.events := by
  obtain ⟨-, h⟩ | ⟨l, r, -, -, h⟩ | ⟨l, -, -, h⟩ := s.advance_cases t <;> rw [h]

end Sys2Proof.Machine
end

