-- ==== Sys2Proof/Laws/Session.lean ====
section
/-! SUPPORT. What one action of a disciplined host can do, and what the transport's reports can mean. -/

namespace Sys2Proof.Machine

section Send
variable (r : HostRules) (h : Session) (c : Instr) (result : SendResult)

@[simp] theorem Session.send_awaiting :
    (h.send r c result).awaiting = if r.acked c then h.awaiting ++ [⟨c, 0⟩] else h.awaiting := rfl
@[simp] theorem Session.send_ended : (h.send r c result).ended = h.ended := rfl

end Send

/-- Everything an action of a disciplined host can do: a permitted request, send or receive. -/
theorem Session.act_some {r : HostRules} {h g : Session} {a : HostAction} (ha : h.act r a = some g) :
    h.permits r a = true ∧
    ((∃ i, a = .request i ∧ g = h) ∨
     (∃ c result, a = .send c result ∧ g = h.send r c result) ∨
     (∃ timeout result e, a = .receive timeout result ∧ h.awaiting = [e] ∧ g = h.receive e timeout result)) := by
  unfold Session.act at ha
  split at ha
  · next hp =>
    refine ⟨hp, ?_⟩
    cases a with
    | request i => exact .inl ⟨i, rfl, by simpa using ha.symm⟩
    | send c result => exact .inr (.inl ⟨c, result, rfl, by simpa using ha.symm⟩)
    | receive timeout result =>
      simp only at ha
      split at ha
      · next e he => exact .inr (.inr ⟨timeout, result, e, rfl, he, by simpa using ha.symm⟩)
      · cases ha
  · cases ha

/-- A receive while one exchange awaits its reply is permitted exactly within what is left of the wait. -/
theorem Session.act_receive {r : HostRules} {h : Session} {e : Exchange} (he : h.awaiting = [e]) (timeout : Nat)
    (result : ReceiveResult) :
    h.act r (.receive timeout result) =
      if e.waited + timeout ≤ r.replyTimeout then some (h.receive e timeout result) else none := by
  simp [Session.act, Session.permits, he]

/-- Everything a receive can mean: the reply, a timeout, or a TransportError. -/
theorem ReceiveResult.outcome_cases (result : ReceiveResult) :
    (∃ received, received ≠ [] ∧ result = .bytes received ∧ result.outcome = .ok received) ∨
    (result = .timeout ∧ result.outcome = .error .timeout) ∨
    ((result = .transportError ∨ result = .bytes []) ∧ result.outcome = .error .transportError) := by
  cases result with
  | bytes received =>
    cases received with
    | nil => exact .inr (.inr ⟨.inr rfl, rfl⟩)
    | cons b bs => exact .inl ⟨b :: bs, by simp, rfl, rfl⟩
  | timeout => exact .inr (.inl ⟨rfl, rfl⟩)
  | transportError => exact .inr (.inr ⟨.inl rfl, rfl⟩)

end Sys2Proof.Machine
end

