-- ==== Sys2Proof/Laws/Step.lean ====
section
/-! SUPPORT. What one step of the machine can do. -/

namespace Sys2Proof.Machine

/-- Everything a step can do when it answers a next state: wait, run a request as one transaction, accept one, advance one,
or reset. -/
theorem step_next {s t : State} (h : step s = .next t) :
    (s.events = [] ∧ t = s) ∨
    (∃ r rest i, s.events = .request r :: rest ∧ decode r = .ok i ∧ exec i { s with events := rest } = .next t) ∨
    (∃ r rest i, s.events = .accept r :: rest ∧ decode r = .ok i ∧ State.accept { s with events := rest } i = .next t) ∨
    (∃ ticket rest, s.events = .advance ticket :: rest ∧ t = State.advance { s with events := rest } ticket) ∨
    (∃ rest, s.events = .reset :: rest ∧ t = State.assertReset { s with events := rest }) := by
  unfold step at h
  split at h
  · next he => cases h; exact .inl ⟨he, rfl⟩
  · next e rest he =>
    cases e with
    | request r =>
      simp only [runEvent] at h
      split at h
      · next i hd => exact .inr (.inl ⟨r, rest, i, he, hd, h⟩)
      · cases h
    | accept r =>
      simp only [runEvent] at h
      split at h
      · next i hd => exact .inr (.inr (.inl ⟨r, rest, i, he, hd, h⟩))
      · cases h
    | advance ticket =>
      simp only [runEvent] at h
      cases h
      exact .inr (.inr (.inr (.inl ⟨ticket, rest, he, rfl⟩)))
    | reset =>
      simp only [runEvent] at h
      cases h
      exact .inr (.inr (.inr (.inr ⟨rest, he, rfl⟩)))

end Sys2Proof.Machine
end

