-- ==== Sys2Proof/Tests/Slice0.lean ====
section
/-! SUPPORT. Tests: vectors of the spec (95_test_vectors.md), decodings written out from 30_encoding.md R69 and R70, and for every
statement with hypotheses a state and operands that meet them. -/

namespace Sys2Proof.Tests

set_option Elab.async false

open Sys2Proof Sys2Proof.Machine

/-- The CMD_IDs that 95_test_vectors.md sections 2.5 and 2.6 assume. -/
def config : Config where
  cmdIdSetUtcTime := 0x30
  cmdIdGetCodecSpec := 0x20
  cmdIdSetCodecSpec := 0x21
  codecSetLayout := CodecLayout.default
  attLongInput := .reject
  maxCrcLen := none

/-- A frame of 95_test_vectors.md section 2.2. -/
def entry : Bytes := [0x55, 0x66, 0x01, 0x00, 0x00, 0x00, 0x00, 0x01, 0x64, 0xC4]

/-- A machine with one fixed command, whose host does `events` next. -/
def machine (events : List HostEvent) : State :=
  ⟨config, romCrcTable, [entry], [], [], 0, events⟩

/-- The newest response after a step. -/
def newest : Host.Outcome State Fault Refusal → Option Response
  | .next t => t.responses.getLast?.map Delivered.response
  | .fault _ => none
  | .refused _ => none

/-- The refusal of a step. -/
def refusal : Host.Outcome State Fault Refusal → Option Refusal
  | .next _ => none
  | .fault _ => none
  | .refused e => some e

/-- The state after a step. -/
def after : Host.Outcome State Fault Refusal → Option State
  | .next t => some t
  | .fault _ => none
  | .refused _ => none

/-! ### Well-formedness -/

/-- R69 with a bound of 2 bytes (D9): three bytes are too long, two are not. -/
theorem test_wf_crc_length :
    (Instr.crc16 [1, 2, 3] 0).wellFormed { config with maxCrcLen := some 2 } 1 = false ∧
    (Instr.crc16 [1, 2] 0).wellFormed { config with maxCrcLen := some 2 } 1 = true := by decide

/-- R73: the ordinal N_FIXED is refused, the one below admitted (section 2.9). -/
theorem test_wf_fixed_ordinal :
    (Instr.encodeFixed 1).wellFormed config 1 = false ∧ (Instr.encodeFixed 0).wellFormed config 1 = true := by decide

/-- A codec layout without the bitrate, one with an empty field, and one beyond 255 bytes make no payload. -/
theorem test_wf_codec_layout :
    CodecLayout.wf CodecLayout.default = true ∧
    CodecLayout.wf [⟨.stream, 1⟩, ⟨.encType, 1⟩, ⟨.width, 2⟩, ⟨.height, 2⟩] = false ∧
    CodecLayout.wf [⟨.stream, 1⟩, ⟨.encType, 1⟩, ⟨.width, 2⟩, ⟨.height, 2⟩, ⟨.width, 2⟩] = false ∧
    CodecLayout.wf [⟨.stream, 0⟩, ⟨.encType, 1⟩, ⟨.width, 2⟩, ⟨.height, 2⟩, ⟨.bitrate, 2⟩] = false ∧
    CodecLayout.wf [⟨.stream, 1⟩, ⟨.encType, 1⟩, ⟨.width, 2⟩, ⟨.height, 2⟩, ⟨.bitrate, 250⟩] = false := by decide

/-- Section 2.2: four frames that satisfy WF_FRAME. -/
theorem test_wf_frame_accepts :
    wfFrame entry = true ∧
    wfFrame [0x55, 0x66, 0x01, 0x00, 0x00, 0x00, 0x00, 0x0D, 0xE8, 0x05] = true ∧
    wfFrame [0x55, 0x66, 0x01, 0x00, 0x00, 0x00, 0x00, 0xFF, 0xB5, 0xCA] = true ∧
    wfFrame [0x55, 0x66, 0x01, 0x01, 0x00, 0x00, 0x00, 0x08, 0x01, 0xD1, 0x12] = true := by decide +kernel

/-- Section 2.2: wrong checksum, wrong order of it, wrong DATA_LEN, a reserved byte that is not zero. -/
theorem test_wf_frame_rejects :
    wfFrame [0x55, 0x66, 0x01, 0x04, 0x00, 0x00, 0x00, 0x0E, 0x00, 0x82, 0xFF, 0xEC, 0x8F, 0x52] = false ∧
    wfFrame [0x55, 0x66, 0x01, 0x04, 0x00, 0x00, 0x00, 0x0E, 0x00, 0x82, 0xFF, 0xEC, 0xAD, 0x8F] = false ∧
    wfFrame [0x55, 0x66, 0x01, 0x05, 0x00, 0x00, 0x00, 0x0E, 0x00, 0x82, 0xFF, 0xEC, 0x8F, 0xAD] = false ∧
    wfFrame [0x55, 0x66, 0x01, 0x04, 0x00, 0x01, 0x00, 0x0E, 0x00, 0x82, 0xFF, 0xEC, 0xEE, 0x15] = false := by
  decide +kernel

/-! ### Decoding: `sel = (op << 8) | tag`, op in bits 9 and 8, tag in bits 7 to 0 -/

/-- Operand values to decode with. -/
def operands : Operands :=
  { data := [0xAB], init := 0x1234, k := 7, yaw := -1, pitch := 2, timestamp := 3, stream := 4, encType := 5, width := 6
    height := 8, bitrate := 9 }

theorem test_decode_crc16 : decode ⟨0b0000000000000000, operands⟩ = .ok (.crc16 [0xAB] 0x1234) := by decide +kernel
theorem test_decode_encodeFixed : decode ⟨0b0000000100000000, operands⟩ = .ok (.encodeFixed 7) := by decide +kernel
theorem test_decode_encodeSetYawPitchSpeed :
    decode ⟨0b0000000100000001, operands⟩ = .ok (.encodeSetYawPitchSpeed (-1) 2) := by decide +kernel
theorem test_decode_encodeSetYawPitchAngle :
    decode ⟨0b0000000100000010, operands⟩ = .ok (.encodeSetYawPitchAngle (-1) 2) := by decide +kernel
theorem test_decode_encodeSetUtcTime : decode ⟨0b0000000100000011, operands⟩ = .ok (.encodeSetUtcTime 3) := by
  decide +kernel
theorem test_decode_encodeGetCodecSpec : decode ⟨0b0000000100000100, operands⟩ = .ok (.encodeGetCodecSpec 4) := by
  decide +kernel
theorem test_decode_encodeSetCodecSpec :
    decode ⟨0b0000000100000101, operands⟩ = .ok (.encodeSetCodecSpec 4 5 6 8 9) := by decide +kernel
theorem test_decode_decodeAttitude : decode ⟨0b0000001000000000, operands⟩ = .ok (.decodeAttitude [0xAB]) := by
  decide +kernel

/-- Section 2.9, and a word that is no 10-bit selector. -/
theorem test_decode_reserved :
    decode ⟨0b0000001100000000, operands⟩ = .error .reservedOp ∧
    decode ⟨0b0000000100000110, operands⟩ = .error (.reservedCommandTag 6) ∧
    decode ⟨0b0000000111111111, operands⟩ = .error (.reservedCommandTag 255) ∧
    decode ⟨0b0000010000000000, operands⟩ = .error .notASelector := by decide +kernel

/-- No selector matches two rows of the opcode table. -/
theorem test_opcode_table_rows_disjoint :
    opcodeTable.Pairwise fun a b => a.value &&& b.mask ≠ b.value &&& a.mask := by decide

/-- The opcode table's numbers, placed after reset, run. -/
theorem test_placed_words_run :
    ([0x000, 0x100, 0x101, 0x102, 0x103, 0x104, 0x105, 0x200].map fun w =>
      (after (step (State.reset.withFetchWord 16 w))).isSome).all id = true := by decide +kernel

/-! ### Instructions, one step each -/

/-- Section 2.1: the XMODEM check value and the CCITT-FALSE init. -/
theorem test_crc16_check_value :
    newest (exec (.crc16 [0x31, 0x32, 0x33, 0x34, 0x35, 0x36, 0x37, 0x38, 0x39] 0) (machine [])) =
      some ⟨.ok, some (.checksum 0x31C3)⟩ ∧
    newest (exec (.crc16 [0x31, 0x32, 0x33, 0x34, 0x35, 0x36, 0x37, 0x38, 0x39] 0xFFFF) (machine [])) =
      some ⟨.ok, some (.checksum 0x29B1)⟩ := by decide +kernel

/-- Section 2.1: the second piece of P2's chained checksum. -/
theorem test_crc16_second_piece :
    newest (exec (.crc16 [0x00, 0x00, 0x0E, 0x00, 0x82, 0xFF, 0xEC] 0xB3DA) (machine [])) =
      some ⟨.ok, some (.checksum 0xAD8F)⟩ := by decide +kernel

/-- Section 2.2: the entry comes back as stored; the ordinal after the last is refused. -/
theorem test_fixed :
    newest (exec (.encodeFixed 0) (machine [])) = some ⟨.ok, some (.frame entry)⟩ ∧
    refusal (exec (.encodeFixed 1) (machine [])) = some .fixedOrdinalOutOfRange := by decide +kernel

/-- S2 of section 1: 104 clamps to 100. -/
theorem test_speed_source_example :
    newest (exec (.encodeSetYawPitchSpeed 104 (-20)) (machine [])) =
      some ⟨.ok, some (.frame [0x55, 0x66, 0x01, 0x02, 0x00, 0x00, 0x00, 0x07, 0x64, 0xEC, 0xBD, 0xDF])⟩ := by
  decide +kernel

/-- Section 2.3: the other bounds. -/
theorem test_speed_bounds :
    newest (exec (.encodeSetYawPitchSpeed (-128) 127) (machine [])) =
      some ⟨.ok, some (.frame [0x55, 0x66, 0x01, 0x02, 0x00, 0x00, 0x00, 0x07, 0x9C, 0x64, 0x55, 0x55])⟩ := by
  decide +kernel

/-- S1 of section 1. -/
theorem test_angle_source_example :
    newest (exec (.encodeSetYawPitchAngle 130 (-20)) (machine [])) =
      some ⟨.ok, some (.frame
        [0x55, 0x66, 0x01, 0x04, 0x00, 0x00, 0x00, 0x0E, 0x00, 0x82, 0xFF, 0xEC, 0x8F, 0xAD])⟩ := by decide +kernel

/-- Section 2.4: one past each of the other two bounds (S6). -/
theorem test_angle_bounds :
    newest (exec (.encodeSetYawPitchAngle (-1351) 251) (machine [])) =
      some ⟨.ok, some (.frame
        [0x55, 0x66, 0x01, 0x04, 0x00, 0x00, 0x00, 0x0E, 0xFA, 0xBA, 0x00, 0xFA, 0x65, 0x47])⟩ := by decide +kernel

/-- Section 2.5: eight different bytes. -/
theorem test_utc_big_endian :
    newest (exec (.encodeSetUtcTime 0x0123456789ABCDEF) (machine [])) =
      some ⟨.ok, some (.frame [0x55, 0x66, 0x01, 0x08, 0x00, 0x00, 0x00, 0x30,
        0x01, 0x23, 0x45, 0x67, 0x89, 0xAB, 0xCD, 0xEF, 0xCE, 0xCB])⟩ := by decide +kernel

/-- Section 2.5: 2^64 saturates. -/
theorem test_utc_saturates :
    newest (exec (.encodeSetUtcTime (2 ^ 64)) (machine [])) =
      some ⟨.ok, some (.frame [0x55, 0x66, 0x01, 0x08, 0x00, 0x00, 0x00, 0x30,
        0xFF, 0xFF, 0xFF, 0xFF, 0xFF, 0xFF, 0xFF, 0xFF, 0x7A, 0xC4])⟩ := by decide +kernel

/-- Section 2.6: the upper bound and below the lower one. -/
theorem test_getcodec :
    newest (exec (.encodeGetCodecSpec 3) (machine [])) =
      some ⟨.ok, some (.frame [0x55, 0x66, 0x01, 0x01, 0x00, 0x00, 0x00, 0x20, 0x02, 0xFD, 0xAD])⟩ ∧
    newest (exec (.encodeGetCodecSpec (-5)) (machine [])) =
      some ⟨.ok, some (.frame [0x55, 0x66, 0x01, 0x01, 0x00, 0x00, 0x00, 0x20, 0x00, 0xBF, 0x8D])⟩ := by decide +kernel

/-- Section 2.6: interior values. -/
theorem test_setcodec :
    newest (exec (.encodeSetCodecSpec 0 2 1920 1080 4000) (machine [])) =
      some ⟨.ok, some (.frame [0x55, 0x66, 0x01, 0x08, 0x00, 0x00, 0x00, 0x21,
        0x00, 0x02, 0x07, 0x80, 0x04, 0x38, 0x0F, 0xA0, 0x15, 0x53])⟩ := by decide +kernel

/-- Section 2.6: every field clamped or at a bound. -/
theorem test_setcodec_clamps :
    newest (exec (.encodeSetCodecSpec 5 0 70000 (-3) 65535) (machine [])) =
      some ⟨.ok, some (.frame [0x55, 0x66, 0x01, 0x08, 0x00, 0x00, 0x00, 0x21,
        0x02, 0x01, 0xFF, 0xFF, 0x00, 0x00, 0xFF, 0xFF, 0x9E, 0xFE])⟩ := by decide +kernel

/-- Section 2.7: signs and byte order. -/
theorem test_attitude :
    newest (exec (.decodeAttitude [0x00, 0x80, 0xFF, 0x7F, 0xFF, 0xFF, 0x01, 0x00, 0x00, 0x01, 0x34, 0x12]) (machine [])) =
      some ⟨.ok, some (.attitude ⟨-32768, 32767, -1, 1, 256, 4660⟩)⟩ := by decide +kernel

/-- Section 2.7: 11 bytes, and 13 bytes under both values of ATT_LONG_INPUT. -/
theorem test_attitude_lengths :
    newest (exec (.decodeAttitude [0x28, 0, 0x32, 0, 0x3C, 0, 4, 0, 5, 0, 6]) (machine [])) =
      some ⟨.malformedReply, none⟩ ∧
    newest (exec (.decodeAttitude [0x28, 0, 0x32, 0, 0x3C, 0, 4, 0, 5, 0, 6, 0, 0xAA]) (machine [])) =
      some ⟨.malformedReply, none⟩ ∧
    newest (exec (.decodeAttitude [0x28, 0, 0x32, 0, 0x3C, 0, 4, 0, 5, 0, 6, 0, 0xAA])
        { machine [] with config := { config with attLongInput := .firstTwelve } }) =
      some ⟨.ok, some (.attitude ⟨40, 50, 60, 4, 5, 6⟩)⟩ := by decide +kernel

/-- Section 2.8. -/
theorem test_clamp :
    clamp (-1351) (-1350) 1350 = -1350 ∧ clamp 1351 (-1350) 1350 = 1350 ∧ clamp (-901) (-900) 250 = -900 ∧
    clamp 0 1 2 = 1 ∧ clamp 3 1 2 = 2 := by decide

/-- Examples of R131, R132 and R171. -/
theorem test_serializers :
    ser1 (-20) = [0xEC] ∧ ser1 (-100) = [0x9C] ∧ serBe (-900) 2 = [0xFC, 0x7C] ∧
    signed16 (leS16 0x00 0x80) = -32768 ∧ signed16 (leS16 0xFF 0x7F) = 32767 := by decide

/-- Spot values of R21. -/
theorem test_rom_crc :
    romCrcTable[0x01] = 0x1021 ∧ romCrcTable[0x55] = 0x0A50 ∧ romCrcTable[0x80] = 0x9188 ∧ romCrcTable[0xFF] = 0x1EF0 := by
  decide +kernel

/-- Section 2.2: check_frame does not see a reserved byte that is not zero, and sees a wrong checksum. -/
theorem test_check_frame :
    (checkFrame [0x55, 0x66, 0x01, 0x04, 0x00, 0x01, 0x00, 0x0E, 0x00, 0x82, 0xFF, 0xEC, 0xEE, 0x15] (machine [])).map
      Prod.fst = some true ∧
    (checkFrame [0x55, 0x66, 0x01, 0x04, 0x00, 0x00, 0x00, 0x0E, 0x00, 0x82, 0xFF, 0xEC, 0x8F, 0x52] (machine [])).map
      Prod.fst = some false := by decide +kernel

/-- The source's spellings (section 1) and R74's. -/
theorem test_assemble :
    assemble "encode(SetYawPitchAngle(130, -20))".toList = some (.encodeSetYawPitchAngle 130 (-20)) ∧
    assemble "encode(SetYawPitchSpeed(104, -20))".toList = some (.encodeSetYawPitchSpeed 104 (-20)) ∧
    assemble "decode_attitude([0x28,0x00,0x32])".toList = some (.decodeAttitude [0x28, 0x00, 0x32]) ∧
    assemble "crc16([], 0x1234)".toList = some (.crc16 [] 0x1234) ∧
    assemble "encode(SetUtcTime(0x0123456789ABCDEF))".toList = some (.encodeSetUtcTime 0x0123456789ABCDEF) ∧
    assemble "encode(Fixed(0))".toList = some (.encodeFixed 0) ∧
    assemble "encode(GetCodecSpec(0x))".toList = none ∧
    assemble "encode(Zoom(1))".toList = none := by decide +kernel

/-! ### The byte-serial engine, one step each -/

/-- The third byte step of S1's prefix (section 1.1): `acc` FD2A and byte 01 give 0493. -/
def crcInFlight : InFlight :=
  ⟨3, .crc16 [0x55, 0x66, 0x01, 0x04] 0, .checksum, .busy, [0x55, 0x66, 0x01, 0x04], 0xFD2A, 2, [], []⟩

theorem test_serial_crc_step :
    (byteStep romCrcTable crcInFlight).acc = 0x0493 ∧ (byteStep romCrcTable crcInFlight).idx = 3 := by decide +kernel

/-- A request longer than zero bytes is in progress after its acceptance, and `phase` is BUSY (R109). -/
theorem test_serial_acceptance :
    (after (step (machine [.accept ⟨0x000, { data := [0x55] }⟩]))).map State.phase = some .busy ∧
    newest (step (machine [.accept ⟨0x000, { init := 0x1234 }⟩])) = some ⟨.ok, some (.checksum 0x1234)⟩ := by
  decide +kernel

/-! ### Witnesses: for every statement with hypotheses, a state and operands that meet them, clause by clause -/

/-- A machine with one fixed command, whatever its host does next, is good. -/
theorem machine_good (events : List HostEvent) : (machine events).Inv where
  romCrc := rfl
  romFixed_nonempty := List.cons_ne_nil _ _
  romFixed_wf := by
    show ∀ e ∈ [entry], wfFrame e = true
    decide +kernel
  layout := by
    show CodecLayout.wf CodecLayout.default = true
    decide
  inProgress := fun _ h => nomatch h
  responses := fun _ h => nomatch h
  tickets_unique := List.nodup_nil
  tickets_used := fun _ h => nomatch h

/-- Two crc16 requests accepted and not yet moved: tickets 0 (one byte) and 1 (two bytes). -/
def inFlight0 : InFlight := InFlight.start 0 (.crc16 [0x55] 0) .checksum [0x55] 0
def inFlight1 : InFlight := InFlight.start 1 (.crc16 [0x55, 0x66] 0) .checksum [0x55, 0x66] 0
def busyMachine (events : List HostEvent) : State :=
  { machine events with inProgress := [inFlight0, inFlight1], nextTicket := 2 }

/-- The machine with two requests in progress is good. -/
theorem busy_machine_good (events : List HostEvent) : (busyMachine events).Inv where
  romCrc := rfl
  romFixed_nonempty := List.cons_ne_nil _ _
  romFixed_wf := (machine_good events).romFixed_wf
  layout := (machine_good events).layout
  inProgress := by
    intro l hl
    rcases List.mem_pair.1 hl with rfl | rfl
    · exact ⟨rfl, 0, rfl, by decide, rfl⟩
    · exact ⟨rfl, 0, rfl, by decide, rfl⟩
  responses := fun _ h => nomatch h
  tickets_unique := by
    show [0, 1].Nodup
    decide
  tickets_used := by
    show ∀ t ∈ [0, 1], t < 2
    decide

/-- A selector alone, its operands zero. -/
def bare (sel : BitVec 16) : Request := ⟨sel, {}⟩

theorem witness_selector_selects_one_row : decode (bare 0x105) = .ok (.encodeSetCodecSpec 0 0 0 0 0) := by decide +kernel

/-- Reserved `op` (with tag 0 and 255), reserved tags at both ends (6, 255), the ordinal N_FIXED, at either level. -/
theorem witness_reserved_requests :
    ([bare 0x300, bare 0x3FF, bare 0x106, bare 0x1FF, ⟨0x100, { k := 1 }⟩].map fun r => (r.sel &&& 0xFC00,
        refusal (step (machine [.request r])), refusal (step (machine [.accept r])))) =
      [(0, some .reservedOp, some .reservedOp), (0, some .reservedOp, some .reservedOp),
       (0, some (.reservedCommandTag 6), some (.reservedCommandTag 6)),
       (0, some (.reservedCommandTag 255), some (.reservedCommandTag 255)),
       (0, some .fixedOrdinalOutOfRange, some .fixedOrdinalOutOfRange)] := by decide +kernel

theorem witness_non_selectors :
    ((bare 0x400).sel &&& 0xFC00 ≠ 0 ∧ refusal (step (machine [.request (bare 0x400)])) = some .notASelector) ∧
    ((bare 0x8100).sel &&& 0xFC00 ≠ 0 ∧ refusal (step (machine [.accept (bare 0x8100)])) = some .notASelector) := by
  decide +kernel

/-- Both clauses: run as a transaction, and accepted by the byte-serial engine. -/
theorem witness_step_runs :
    (decode (bare 0x101) = .ok (.encodeSetYawPitchSpeed 0 0) ∧
      (machine [.request (bare 0x101)]).events = [.request (bare 0x101)]) ∧
    (machine [.accept (bare 0x101)]).events = [.accept (bare 0x101)] := by decide +kernel

theorem witness_placed_word : decodeTableWord 16 0x104 = some (.encodeGetCodecSpec 0) := by decide +kernel

/-- Lengths admitted without a bound, and at a bound; one beyond it is refused (D9). -/
theorem witness_crc_lengths :
    ((machine []).romCrc = romCrcTable ∧ (machine []).config.admitsCrcLength ([1, 2, 3] : Bytes).length = true) ∧
    ({ config with maxCrcLen := some 3 } : Config).admitsCrcLength ([1] ++ [2, 3] : Bytes).length = true ∧
    refusal (exec (.crc16 [1, 2, 3, 4] 0) { machine [] with config := { config with maxCrcLen := some 3 } }) =
      some .crcInputTooLong := by decide +kernel

theorem witness_crc_linear_and_residue :
    (machine []).romCrc = romCrcTable ∧ ([1, 2] : Bytes).length = ([3, 4] : Bytes).length ∧
    (machine []).config.admitsCrcLength ([1, 2] : Bytes).length = true ∧
    (machine []).config.admitsCrcLength (([1, 2] : Bytes).length + 2) = true := by decide +kernel

/-- The last ordinal, and the one after it. -/
theorem witness_fixed_ordinals : 0 < (machine []).romFixed.length ∧ (machine []).romFixed.length ≤ 1 := by decide

/-- The default layout is well formed; one without fields makes no payload and is refused. -/
theorem witness_codec_layouts :
    (machine []).config.codecSetLayout = CodecLayout.default ∧
    CodecLayout.wf (machine []).config.codecSetLayout = true ∧
    refusal (exec (.encodeSetCodecSpec 0 1 2 3 4) { machine [] with config := { config with codecSetLayout := [] } }) =
      some .malformedCodecLayout := by decide +kernel

/-- Admitted commands (the largest ordinal among them), and an ordinal that is not. -/
theorem witness_admitted_commands :
    (machine []).Inv ∧ (Instr.encodeFixed 0).opTag.1 = 1 ∧
    (Instr.encodeFixed 0).wellFormed (machine []).config (machine []).romFixed.length = true ∧
    (Instr.encodeFixed 1).wellFormed (machine []).config (machine []).romFixed.length = false ∧
    (Instr.encodeSetUtcTime (-1)).wellFormed (machine []).config (machine []).romFixed.length = true :=
  ⟨machine_good [], by decide, by decide, by decide, by decide⟩

/-- A payload of the greatest length. -/
theorem witness_frames : wfFrame entry = true ∧ (List.replicate 255 (0 : Byte)).length ≤ 255 := by decide +kernel

/-- A fixed command, and a parameterized one under the decided layout, answered by a good state. -/
theorem witness_emitted_frames :
    (machine []).Inv ∧ (∃ t, exec (.encodeFixed 0) (machine []) = .next t) ∧
    ((Instr.encodeSetCodecSpec 0 0 0 0 0).opTag.1 = 1 ∧ (Instr.encodeSetCodecSpec 0 0 0 0 0).opTag.2 ≠ 0 ∧
      (machine []).config.codecSetLayout = CodecLayout.default ∧
      ∃ t, exec (.encodeSetCodecSpec 0 0 0 0 0) (machine []) = .next t) :=
  ⟨machine_good [], ⟨_, rfl⟩, by decide, by decide, rfl, _, rfl⟩

theorem witness_clamp : (-900 : Int) ≤ 250 ∧ (-901 : Int) ≤ -900 ∧ (-901 : Int) < -900 ∧ (250 : Int) < 251 := by decide

/-- The lengths around 12, under both values of ATT_LONG_INPUT. -/
theorem witness_attitude_lengths :
    ([] : Bytes).length < 12 ∧ (List.replicate 11 (0 : Byte)).length < 12 ∧
    (12 < (List.replicate 13 (0 : Byte)).length ∧ (machine []).config.attLongInput = .reject) ∧
    (List.replicate 12 (0 : Byte)).length = 12 ∧
    (12 < (List.replicate 13 (0 : Byte)).length ∧
      ({ machine [] with config := { config with attLongInput := .firstTwelve } } : State).config.attLongInput =
        .firstTwelve) := by decide +kernel

/-- Requests of the three operations that are answered, one of them with MALFORMED_REPLY; and two states with the same
tables, the second with requests in progress. -/
theorem witness_answered :
    (∃ t, exec (.crc16 [] 0) (machine []) = .next t) ∧ (∃ t, exec (.encodeGetCodecSpec 0) (machine []) = .next t) ∧
    (∃ t, exec (.decodeAttitude (List.replicate 12 0)) (machine []) = .next t) ∧
    (∃ t, exec (.decodeAttitude []) (machine []) = .next t) ∧
    (machine []).config = (busyMachine []).config ∧ (machine []).romCrc = (busyMachine []).romCrc ∧
    (machine []).romFixed = (busyMachine []).romFixed :=
  ⟨⟨_, rfl⟩, ⟨_, rfl⟩, ⟨_, rfl⟩, ⟨_, rfl⟩, rfl, rfl, rfl⟩

/-- Reset asserted while two requests are in progress. -/
theorem witness_asserted_reset :
    (busyMachine [.reset, .advance 0]).events = [.reset, .advance 0] ∧ (busyMachine [.reset, .advance 0]).phase = .busy ∧
    (after (step (busyMachine [.reset, .advance 0]))).map State.phase = some .idle := by decide +kernel

/-- A good state whose step answers. -/
theorem witness_good_step :
    (machine [.request (bare 0x103)]).Inv ∧ (∃ t, step (machine [.request (bare 0x103)]) = .next t) ∧
    (busyMachine [.advance 0]).Inv ∧ ∃ t, step (busyMachine [.advance 0]) = .next t :=
  ⟨machine_good _, ⟨_, rfl⟩, busy_machine_good _, _, rfl⟩

/-- Acceptance of no bytes, and of one. -/
theorem witness_crc_acceptance :
    (decode ⟨0x000, { init := 7 }⟩ = .ok (.crc16 [] 7) ∧ config.admitsCrcLength 0 = true) ∧
    (decode ⟨0x000, { data := [0xAB] }⟩ = .ok (.crc16 [0xAB] 0) ∧ config.admitsCrcLength 1 = true) := by decide +kernel

/-- A request at its last byte, and one that has another to come. -/
theorem witness_crc_byte_step :
    ((busyMachine [.advance 0]).events = [.advance 0] ∧ (busyMachine [.advance 0]).inFlight? 0 = some inFlight0 ∧
      inFlight0.work = .checksum ∧ inFlight0.input[inFlight0.idx]? = some 0x55 ∧
      inFlight0.idx + 1 = inFlight0.input.length) ∧
    ((busyMachine [.advance 1]).inFlight? 1 = some inFlight1 ∧ inFlight1.work = .checksum ∧
      inFlight1.input[inFlight1.idx]? = some 0x55 ∧ inFlight1.idx + 1 ≠ inFlight1.input.length) := by decide +kernel

/-- A command accepted and given its 11 byte steps; and stopped short of the last. -/
theorem witness_serial_runs :
    (machine (.accept (bare 0x104) :: (List.replicate 11 (.advance 0) ++ []))).Inv ∧
    decode (bare 0x104) = .ok (.encodeGetCodecSpec 0) ∧
    (∀ events, byteSteps (machine events) (.encodeGetCodecSpec 0) = 11 ∧ (machine events).nextTicket = 0) ∧
    (machine (.accept (bare 0x104) :: (List.replicate 10 (.advance 0) ++ []))).Inv ∧ 10 < 11 ∧
    ∃ t, exec (.encodeGetCodecSpec 0) (machine (.accept (bare 0x104) :: (List.replicate 10 (.advance 0) ++ []))) = .next t :=
  ⟨machine_good _, rfl, fun _ => ⟨rfl, rfl⟩, machine_good _, by decide, _, rfl⟩

/-- Answers of the three kinds whose byte steps ByteStepCounts counts. -/
theorem witness_byte_step_counts :
    (machine []).Inv ∧
    exec (.encodeFixed 0) (machine []) = .next ((machine []).deliver (.encodeFixed 0) ⟨.ok, some (.frame entry)⟩) ∧
    exec (.decodeAttitude (List.replicate 12 0)) (machine []) = .next ((machine []).deliver
      (.decodeAttitude (List.replicate 12 0)) ⟨.ok, some (.attitude ⟨0, 0, 0, 0, 0, 0⟩)⟩) ∧
    exec (.decodeAttitude []) (machine []) =
      .next ((machine []).deliver (.decodeAttitude []) ⟨.malformedReply, none⟩) :=
  ⟨machine_good [], rfl, rfl, rfl⟩

/-- The byte steps of two requests interleaved, each given all that it needs: ticket 1 its two, ticket 0 its one. -/
theorem witness_interleaving :
    (busyMachine ([1, 0, 1].map .advance ++ [])).Inv ∧
    (inFlight0 ∈ (busyMachine []).inProgress ∧ byteSteps (busyMachine []) inFlight0.request ≤ [1, 0, 1].count 0) ∧
    (inFlight1 ∈ (busyMachine []).inProgress ∧ byteSteps (busyMachine []) inFlight1.request ≤ [1, 0, 1].count 1) :=
  ⟨busy_machine_good _, by decide, by decide⟩

/-- Two different requests in progress, each of which a byte step moves. -/
theorem witness_two_requests :
    (0 : Nat) ≠ 1 ∧ (busyMachine []).advance 0 ≠ busyMachine [] ∧ (busyMachine []).advance 1 ≠ busyMachine [] := by
  decide +kernel

theorem witness_host_crc :
    ([0x55] : Bytes).length < 2 ∧ 2 ≤ entry.length ∧ (machine []).config.admitsCrcLength (entry.length - 2) = true ∧ (machine []).Inv ∧ wfFrame entry = true ∧
    (machine []).config.admitsCrcLength (framePrefix 7 [1, 2]).length = true :=
  ⟨by decide, by decide, rfl, machine_good [], by decide +kernel, rfl⟩

/-- A host whose one acknowledged command is the fixed one, which waits at most 5, and whose transport strips nothing. -/
def rules : HostRules where
  acked := fun c => c == .encodeFixed 0
  replyTimeout := 5
  replyPayload := id
  admitted := fun i => i.wellFormed config 1

/-- The fixed command sent, its reply awaited. -/
def awaitingReply : Session := ⟨[⟨.encodeFixed 0, 0⟩], [], []⟩

/-- A send starts the exchange also where it fails; meanwhile a second acknowledged command breaks the discipline, whatever
its send reports (R235), and a command that is not acknowledged does not. -/
theorem witness_discipline :
    Session.run rules Session.start [.send (.encodeFixed 0) (.sent 10)] = some awaitingReply ∧
    (Session.run rules Session.start [.send (.encodeFixed 0) .transportError]).map Session.awaiting =
      some awaitingReply.awaiting ∧
    awaitingReply.awaiting ≠ [] ∧ rules.acked (.encodeFixed 0) = true ∧
    awaitingReply.act rules (.send (.encodeFixed 0) (.sent 1)) = none ∧
    awaitingReply.act rules (.send (.encodeFixed 0) .transportError) = none ∧
    awaitingReply.act rules (.send (.encodeGetCodecSpec 0) (.sent 11)) = some awaitingReply := by decide +kernel

/-- Waits at the bound and beyond it, and with nothing awaited. -/
theorem witness_waits :
    (awaitingReply.awaiting = [⟨.encodeFixed 0, 0⟩] ∧ 0 + 5 ≤ rules.replyTimeout ∧ rules.replyTimeout < 0 + 6) ∧
    (awaitingReply.act rules (.receive 5 .timeout)).map Session.ended = some [(.encodeFixed 0, .unconfirmed)] ∧
    awaitingReply.act rules (.receive 6 (.bytes [1])) = none ∧
    Session.start.awaiting = [] ∧ Session.start.act rules (.receive 0 (.bytes [1])) = none := by decide +kernel

/-- A reply ends the exchange; zero bytes received and a failed receive do not (R204, R235), and the rest of the wait is
what the first receive left. -/
theorem witness_exchange_ends :
    (([1] : Bytes) ≠ [] ∧ (awaitingReply.act rules (.receive 5 (.bytes [1]))).map Session.awaiting = some []) ∧
    (awaitingReply.act rules (.receive 3 (.bytes []))).map Session.awaiting = some [⟨.encodeFixed 0, 3⟩] ∧
    (awaitingReply.act rules (.receive 3 .transportError)).map Session.awaiting = some [⟨.encodeFixed 0, 3⟩] ∧
    Session.run rules awaitingReply [.receive 3 .transportError, .receive 3 .timeout] = none ∧
    awaitingReply.act rules (.request (.crc16 [1] 0)) = some awaitingReply := by decide +kernel

/-- A received reply may be decoded, other bytes may not; an ordinal beyond the table may not be named. -/
theorem witness_requests :
    (∃ h, Session.run rules Session.start [.send (.encodeFixed 0) (.sent 10), .receive 5 (.bytes [1, 2])] = some h ∧
      h.act rules (.request (.decodeAttitude [1, 2])) = some h ∧
      h.act rules (.request (.decodeAttitude [1])) = none) ∧
    Session.start.act rules (.request (.encodeFixed 0)) = some Session.start ∧
    Session.start.act rules (.request (.encodeFixed 1)) = none :=
  ⟨⟨_, rfl, by decide +kernel, by decide +kernel⟩, by decide +kernel, by decide +kernel⟩

/-- A good state whose tables are the ones the host's rules admit commands by. -/
theorem witness_requests_answered :
    (machine []).Inv ∧ (∀ j, rules.admitted j = j.wellFormed (machine []).config (machine []).romFixed.length) ∧
    (machine []).config.admitsCrcLength ([1] : Bytes).length = true ∧
    Session.start.act rules (.request (.crc16 [1] 0)) = some Session.start :=
  ⟨machine_good [], fun _ => rfl, rfl, by decide +kernel⟩

end Sys2Proof.Tests
end

section
/-! What a completed request, a decoded event and a clamped argument come to, and the statements of 00_scope.md settled
with them: one step and its request (R3), the bound on a checksum's input (D9), the fixed-command table (R23, R122) and the
parameter CODEC_SET_LAYOUT (R7, D5). -/

namespace Sys2Proof.Machine

/-! ### Completing a request -/

@[simp] theorem State.complete_ok (s : State) (i : Instr) (r : Response) : s.complete i (.ok r) = .next (s.deliver i r) := rfl

@[simp] theorem State.complete_error (s : State) (i : Instr) (e : Refusal) : s.complete i (.error e) = .refused e := rfl

/-- A request whose answer is a response delivers it. -/
theorem exec_of_answer_ok {s : State} {i : Instr} {r : Response} (h : answer s i = .ok r) :
    exec i s = .next (s.deliver i r) := by
  rw [exec_eq_complete, h, State.complete_ok]

/-- A request whose answer is a refusal is refused. -/
theorem exec_of_answer_error {s : State} {i : Instr} {e : Refusal} (h : answer s i = .error e) :
    exec i s = .refused e := by
  rw [exec_eq_complete, h, State.complete_error]

/-! ### The host's next event -/

/-- A step with an event runs it in the state without it. -/
theorem step_of_events_cons {s : State} {e : HostEvent} {rest : List HostEvent} (h : s.events = e :: rest) :
    step s = runEvent { s with events := rest } e := by
  simp only [step, h]

/-- A request that decodes is run by its meaning. -/
theorem runEvent_request_of_decode {r : Request} {i : Instr} (s : State) (h : decode r = .ok i) :
    runEvent s (.request r) = exec i s := by
  simp only [runEvent, h]

/-- An accepted request that decodes goes to the byte-serial engine. -/
theorem runEvent_accept_of_decode {r : Request} {i : Instr} (s : State) (h : decode r = .ok i) :
    runEvent s (.accept r) = s.accept i := by
  simp only [runEvent, h]

/-- Settles O6: the step takes the event off the host's list, and the event's request decodes to `i`. -/
theorem stepRunsTheDecodedRequest : Obligations.StepRunsTheDecodedRequest := by
  intro s r rest i hdecode
  constructor
  · intro hevents
    rw [step_of_events_cons hevents, runEvent_request_of_decode _ hdecode]
  · intro hevents
    rw [step_of_events_cons hevents, runEvent_accept_of_decode _ hdecode]

/-! ### The bound on a checksum's input -/

/-- Under a bound `m`, exactly the lengths up to `m` are admitted. -/
theorem admitsCrcLength_of_bound {c : Config} {m : Nat} (h : c.maxCrcLen = some m) (n : Nat) :
    c.admitsCrcLength n = decide (n ≤ m) := by
  simp only [Config.admitsCrcLength, h]

/-- An input of a length that is not admitted is answered by the refusal. -/
theorem answerCrc16_of_not_admits {s : State} {data : Bytes} (init : Word)
    (h : s.config.admitsCrcLength data.length = false) : answerCrc16 s data init = .error .crcInputTooLong := by
  simp [answerCrc16, h]

/-- Settles O15: a length beyond the bound is not admitted, so the answer is the refusal. -/
theorem crc16BeyondTheBoundIsRefused : Obligations.Crc16BeyondTheBoundIsRefused := by
  intro s data init m hbound hlong
  have hadmit : s.config.admitsCrcLength data.length = false := by
    rw [admitsCrcLength_of_bound hbound]
    exact decide_eq_false (Nat.not_le_of_lt hlong)
  exact exec_of_answer_error (answerCrc16_of_not_admits init hadmit)

/-! ### The fixed-command table -/

/-- A fixed-command table has a first entry. -/
theorem fixedTable_contents_ne_nil (t : FixedTable) : t.contents ≠ [] := List.cons_ne_nil _ _

/-- Every entry of a fixed-command table is a frame: each carries its proof of WF_FRAME. -/
theorem wfFrame_of_mem_contents {t : FixedTable} {e : Bytes} (h : e ∈ t.contents) : wfFrame e = true := by
  rcases List.mem_cons.mp h with rfl | hrest
  · exact t.first.wf
  · obtain ⟨entry, -, rfl⟩ := List.mem_map.mp hrest
    exact entry.wf

/-- Settles O17: the table at reset is the contents of the OPEN fixed-command table. -/
theorem resetFixedTableHoldsFrames : Obligations.ResetFixedTableHoldsFrames := by
  unfold Obligations.ResetFixedTableHoldsFrames
  rw [State.reset_romFixed]
  exact ⟨fixedTable_contents_ne_nil _, fun _ he => wfFrame_of_mem_contents he⟩

/-! ### The layout of Set codec spec -/

/-- Clamping to a range that is not empty, with the lower bound applied last. -/
theorem clamp_eq_max_min {lo hi : Int} (h : lo ≤ hi) (v : Int) : clamp v lo hi = max lo (min v hi) := by
  rw [clamp, max_min_distrib_left, max_eq_right h, max_comm]

/-- `2^(8n) - 1` is `256^n - 1`, the greatest value of `n` unsigned bytes. -/
theorem clampToWidth_eq_max_min (v : Int) (n : Nat) : clampToWidth v n = max 0 (min v (256 ^ n - 1)) := by
  have hbytes : ((2 ^ (8 * n) : Nat) : Int) = 256 ^ n := by rw [pow_mul]; norm_cast
  have hpos : (0 : Int) < 256 ^ n := by positivity
  rw [clampToWidth, hbytes, clamp_eq_max_min (by omega)]

/-- Under a well-formed layout Set codec spec is answered by the frame of its payload. -/
theorem answerSetCodecSpec_of_wf {s : State} (a : CodecArgs) (h : CodecLayout.wf s.config.codecSetLayout = true) :
    answerSetCodecSpec s a = .ok ⟨.ok, some (.frame
      (buildFrame s.romCrc s.config.cmdIdSetCodecSpec (setCodecPayload s.config.codecSetLayout a)))⟩ := by
  rw [answerSetCodecSpec, if_pos h]; rfl

/-- Under any other layout it is refused. -/
theorem answerSetCodecSpec_of_not_wf {s : State} (a : CodecArgs) (h : CodecLayout.wf s.config.codecSetLayout = false) :
    answerSetCodecSpec s a = .error .malformedCodecLayout := by
  simp [answerSetCodecSpec, h]

/-- Settles O23: field by field, the model's clamp is the one the statement writes out, so the payloads agree. -/
theorem setCodecSpecFollowsItsLayout : Obligations.SetCodecSpecFollowsItsLayout := by
  intro s stream encType width height bitrate
  refine ⟨fun hwf => ?_, fun hwf => exec_of_answer_error (answerSetCodecSpec_of_not_wf _ hwf)⟩
  rw [exec_of_answer_ok (i := .encodeSetCodecSpec stream encType width height bitrate)
    (answerSetCodecSpec_of_wf _ hwf), setCodecPayload]
  congr 6
  refine List.flatMap_congr fun f _ => congrArg (serField · f.bytes) ?_
  cases f.arg with
  | stream => exact clamp_eq_max_min (by decide) stream
  | encType => exact clamp_eq_max_min (by decide) encType
  | width => exact clampToWidth_eq_max_min width f.bytes
  | height => exact clampToWidth_eq_max_min height f.bytes
  | bitrate => exact clampToWidth_eq_max_min bitrate f.bytes

end Sys2Proof.Machine
end

section
/-! What a byte step makes of a request in progress, how a launch relates to the answer owed, which tables and tickets a step
keeps, and the statements of 10_state.md settled with them: the machine's invariant (R20, R25), the frame of a request
(R40, R48), reset (R28), ROM_CRC (R21), and the byte-serial engine against the transaction (R109). -/

namespace Sys2Proof.Machine

/-! ### One byte step, by the kind of work -/

section ByteStepEquations
variable {rom : RomCrc} {l : InFlight}

/-- A byte step of CRC16 folds one input byte (R109). -/
theorem byteStep_checksum {b : Byte} (hw : l.work = .checksum) (hb : l.input[l.idx]? = some b) :
    byteStep rom l = { l with acc := crcStep rom l.acc b, idx := l.idx + 1 } := by
  simp only [byteStep, hw, memRead, hb]

/-- A byte step within a command's bytes before the checksum writes and folds one of them (R144). -/
theorem byteStep_build_body {p : Bytes} {b : Byte} (hw : l.work = .build p) (hb : p[l.idx]? = some b) :
    byteStep rom l =
      { l with output := memWrite l.output l.idx b, acc := crcStep rom l.acc b, idx := l.idx + 1 } := by
  simp only [byteStep, hw, memRead, hb]

/-- A byte step after the payload writes one byte of the accumulator (R144). -/
theorem byteStep_build_checksum {p : Bytes} (hw : l.work = .build p) (hp : p.length ≤ l.idx) :
    byteStep rom l =
      { l with
        output := memWrite l.output l.idx (if l.idx = p.length then lowByte l.acc else highByte l.acc)
        idx := l.idx + 1 } := by
  simp only [byteStep, hw, memRead, List.getElem?_eq_none hp]

/-- A byte step of a fixed command copies one byte of the entry (R144). -/
theorem byteStep_copy {e : Bytes} {b : Byte} (hw : l.work = .copy e) (hb : e[l.idx]? = some b) :
    byteStep rom l = { l with output := memWrite l.output l.idx b, idx := l.idx + 1 } := by
  simp only [byteStep, hw, memRead, hb]

/-- A byte step of DECODE_ATTITUDE sets one field (R176). -/
theorem byteStep_attitude {j : Nat} {v : S16} (hw : l.work = .attitude) (hj : l.idx = 2 * j)
    (hv : attitudeField l.input j = some v) :
    byteStep rom l = { l with fields := l.fields ++ [v], idx := l.idx + 2 } := by
  unfold attitudeField at hv
  split at hv
  · next b0 b1 h0 h1 =>
    obtain rfl : leS16 b0 b1 = v := by simpa using hv
    simp only [byteStep, hw, hj, h0, h1]
  · cases hv

end ByteStepEquations

/-! ### How far a request has come -/

/-- The byte steps a request in progress still needs (R238). -/
def InFlight.stepsLeft (l : InFlight) : Nat :=
  match l.work with
  | .checksum => l.input.length - l.idx
  | .build p => p.length + 2 - l.idx
  | .copy e => e.length - l.idx
  | .attitude => 6 - l.fields.length

/-- The operation-local state is what the byte steps so far make of the captured operands, where `acc` was the accumulator
at acceptance: `InFlight.Consistent` without its demand that the response is still to come. -/
def InFlight.Reached (rom : RomCrc) (acc : Word) (l : InFlight) : Prop :=
  match l.work with
  | .checksum => l.idx ≤ l.input.length ∧ l.acc = crc16 rom (l.input.take l.idx) acc
  | .build p =>
    l.idx ≤ p.length + 2 ∧ l.acc = crc16 rom (p.take l.idx) 0 ∧ l.output = (withChecksum rom p).take l.idx
  | .copy e => l.idx ≤ e.length ∧ l.output = e.take l.idx
  | .attitude =>
    l.fields.length ≤ 6 ∧ l.idx = 2 * l.fields.length ∧
      (List.range l.fields.length).map (attitudeField l.input) = l.fields.map some

/-- An index short of a bound, written as one within it that leaves something over. -/
theorem lt_and_iff_le_and_sub_pos {i n : Nat} {P : Prop} : i < n ∧ P ↔ (i ≤ n ∧ P) ∧ 0 < n - i := by
  rw [Nat.sub_pos_iff_lt]
  exact ⟨fun ⟨h, hP⟩ => ⟨⟨h.le, hP⟩, h⟩, fun ⟨⟨_, hP⟩, h⟩ => ⟨h, hP⟩⟩

/-- The demand `Consistent` adds to `Reached` is that a byte step is still needed. -/
theorem InFlight.consistent_iff (s : State) (l : InFlight) :
    l.Consistent s ↔ l.phase = .busy ∧ ∃ acc, launch s l.request = .started l.work l.input acc ∧
      l.Reached s.romCrc acc ∧ 0 < l.stepsLeft := by
  unfold InFlight.Consistent InFlight.Reached InFlight.stepsLeft
  refine and_congr_right fun _ => exists_congr fun acc => and_congr_right fun _ => ?_
  cases l.work <;> exact lt_and_iff_le_and_sub_pos

/-! ### What acceptance fixes -/

/-- The answer a launch leads to: at acceptance, or after the last byte step of the work it starts. -/
def Launch.answer (rom : RomCrc) : Launch → Except Refusal Response
  | .refuse e => .error e
  | .answered r => .ok r
  | .started .checksum input acc => .ok (.ofResult (.checksum (Machine.crc16 rom input acc)))
  | .started (.build p) _ _ => .ok (.ofResult (.frame (withChecksum rom p)))
  | .started (.copy e) _ _ => .ok (.ofResult (.frame e))
  | .started .attitude input _ =>
    .ok (((attitudeIn input).map fun a => Response.ofResult (.attitude a)).getD raiseMalformedReply)

/-- A request is owed the answer its launch leads to. -/
theorem answer_eq_launch_answer (s : State) (i : Instr) : answer s i = (launch s i).answer s.romCrc := by
  cases i with
  | crc16 data init =>
    simp only [answer, answerCrc16, launch]
    split <;> rfl
  | encodeFixed k =>
    cases hk : s.romFixed[k]? with
    | none => simp only [answer, answerEncodeFixed, launch, hk, Launch.answer]
    | some e => simp only [answer, answerEncodeFixed, launch, hk, Launch.answer]
  | encodeSetCodecSpec stream encType width height bitrate =>
    simp only [answer, answerSetCodecSpec, launch]
    split <;> rfl
  | decodeAttitude data =>
    simp only [answer, answerDecodeAttitude, launch]
    cases attitudeStatus s.config.attLongInput data.length with
    | malformedReply => rfl
    | ok => cases h : attitudeIn data <;> simp [Launch.answer, h]
  | encodeSetYawPitchSpeed yaw pitch => rfl
  | encodeSetYawPitchAngle yaw pitch => rfl
  | encodeSetUtcTime timestamp => rfl
  | encodeGetCodecSpec stream => rfl

/-- DECODE_ATTITUDE reports OK only on 12 bytes or more (R172). -/
theorem twelve_le_of_attitudeStatus_ok {long : AttLongInput} {L : Nat} (h : attitudeStatus long L = .ok) : 12 ≤ L := by
  unfold attitudeStatus at h
  split at h
  · cases h
  · next hL => exact Nat.le_of_not_lt hL

/-- Everything a launch can start: a checksum, a fixed command's copy, a frame, or the fields of an Attitude. -/
theorem launch_started_cases {s : State} {i : Instr} {work : Work} {input : Bytes} {acc : Word}
    (h : launch s i = .started work input acc) :
    (work = .checksum ∧ byteSteps s i = input.length) ∨
    (∃ e, work = .copy e ∧ byteSteps s i = e.length) ∨
    (∃ cmdId payload, work = .build (framePrefix cmdId payload) ∧ acc = 0 ∧ byteSteps s i = 10 + payload.length) ∨
    (work = .attitude ∧ 12 ≤ input.length ∧ byteSteps s i = 6) := by
  cases i with
  | crc16 data init =>
    simp only [launch] at h
    split at h <;> cases h
    exact .inl ⟨rfl, rfl⟩
  | encodeFixed k =>
    simp only [launch] at h
    split at h <;> cases h
    next e hk => exact .inr (.inl ⟨e, rfl, by simp only [byteSteps, hk]⟩)
  | encodeSetYawPitchSpeed yaw pitch => cases h; exact .inr (.inr (.inl ⟨_, _, rfl, rfl, rfl⟩))
  | encodeSetYawPitchAngle yaw pitch =>
    cases h
    exact .inr (.inr (.inl ⟨_, _, rfl, rfl, by rw [anglePayload_length]; rfl⟩))
  | encodeSetUtcTime timestamp => cases h; exact .inr (.inr (.inl ⟨_, _, rfl, rfl, by rw [utcPayload_length]; rfl⟩))
  | encodeGetCodecSpec stream => cases h; exact .inr (.inr (.inl ⟨_, _, rfl, rfl, rfl⟩))
  | encodeSetCodecSpec stream encType width height bitrate =>
    simp only [launch, launchFrame] at h
    split at h <;> cases h
    exact .inr (.inr (.inl ⟨_, _, rfl, rfl, by rw [setCodecPayload_length]; rfl⟩))
  | decodeAttitude data =>
    simp only [launch] at h
    split at h <;> cases h
    next hok => exact .inr (.inr (.inr ⟨rfl, twelve_le_of_attitudeStatus_ok hok, by simp only [byteSteps, hok]⟩))

/-- DECODE_ATTITUDE starts only on an input that has six fields. -/
theorem twelve_le_of_launch_attitude {s : State} {i : Instr} {input : Bytes} {acc : Word}
    (h : launch s i = .started .attitude input acc) : 12 ≤ input.length := by
  obtain ⟨⟨⟩, -⟩ | ⟨_, ⟨⟩, -⟩ | ⟨_, _, ⟨⟩, -⟩ | ⟨-, hlen, -⟩ := launch_started_cases h
  exact hlen

/-- A parameterized command starts with the accumulator 0 (R104). -/
theorem acc_eq_zero_of_launch_build {s : State} {i : Instr} {p input : Bytes} {acc : Word}
    (h : launch s i = .started (.build p) input acc) : acc = 0 := by
  obtain ⟨⟨⟩, -⟩ | ⟨_, ⟨⟩, -⟩ | ⟨_, _, -, hacc, -⟩ | ⟨⟨⟩, -⟩ := launch_started_cases h
  exact hacc

/-- A request takes the byte steps that the work its launch starts needs (R238). -/
theorem InFlight.stepsLeft_start {s : State} {i : Instr} {work : Work} {input : Bytes} {acc : Word}
    (h : launch s i = .started work input acc) (ticket : Nat) :
    (InFlight.start ticket i work input acc).stepsLeft = byteSteps s i := by
  obtain ⟨rfl, hn⟩ | ⟨e, rfl, hn⟩ | ⟨cmdId, payload, rfl, -, hn⟩ | ⟨rfl, -, hn⟩ := launch_started_cases h
  · rw [hn]; rfl
  · rw [hn]; rfl
  · rw [hn]
    show (framePrefix cmdId payload).length + 2 = 10 + payload.length
    rw [framePrefix_length]
    omega
  · rw [hn]; rfl

/-! ### A request's first and last state, and the byte step between two -/

/-- A six-field Attitude needs six fields (R173). -/
theorem attitudeOf_isSome_iff (fields : List S16) : (attitudeOf fields).isSome ↔ fields.length = 6 := by
  constructor
  · intro h
    unfold attitudeOf at h
    split at h
    · rfl
    · cases h
  · intro h
    match fields, h with
    | [_, _, _, _, _, _], _ => rfl

/-- The field is there when both its bytes are. -/
theorem attitudeField_isSome {data : Bytes} {j : Nat} (h : 2 * j + 1 < data.length) :
    ∃ v, attitudeField data j = some v := by
  have h0 : memRead data (2 * j) = some data[2 * j] := List.getElem?_eq_getElem _
  have h1 : memRead data (2 * j + 1) = some data[2 * j + 1] := List.getElem?_eq_getElem _
  simp [attitudeField, h0, h1]

/-- Six fields that are each read are the Attitude of the input. -/
theorem attitudeIn_of_fields {data : Bytes} {fields : List S16} (hlen : fields.length = 6)
    (h : (List.range fields.length).map (attitudeField data) = fields.map some) :
    attitudeIn data = attitudeOf fields := by
  have hread : (List.range 6).mapM (attitudeField data) = some fields := by
    rw [hlen] at h
    calc (List.range 6).mapM (attitudeField data)
        = ((List.range 6).map (attitudeField data)).mapM id := by rw [List.mapM_map, Function.id_comp]
      _ = (fields.map some).mapM id := by rw [h]
      _ = fields.mapM fun v => pure (id v) := by rw [List.mapM_map]; rfl
      _ = some fields := by rw [List.mapM_pure, List.map_id]; rfl
  rw [attitudeIn, hread, Option.bind_some]

/-- Writing byte `n` of a sequence after its first `n` makes its first `n + 1`. -/
theorem memWrite_take {f : Bytes} {n : Nat} {b : Byte} (h : f[n]? = some b) :
    memWrite (f.take n) n b = f.take (n + 1) := by
  have hlt : n < f.length := (List.getElem?_eq_some_iff.mp h).1
  have hn : (f.take n).length = n := by simp [hlt.le]
  calc memWrite (f.take n) n b = memWrite (f.take n) (f.take n).length b := by rw [hn]
    _ = f.take n ++ [b] := memWrite_at_end _ _
    _ = f.take (n + 1) := by rw [List.take_add_one, h, Option.toList_some]

/-- The two bytes that `withChecksum` adds are the checksum, low byte first (R66). -/
theorem withChecksum_getElem?_checksum (rom : RomCrc) (p : Bytes) {n : Nat} (h : p.length ≤ n) (h2 : n < p.length + 2) :
    (withChecksum rom p)[n]? =
      some (if n = p.length then lowByte (Machine.crc16 rom p 0) else highByte (Machine.crc16 rom p 0)) := by
  rw [withChecksum, List.getElem?_append_right h]
  obtain rfl | rfl : n = p.length ∨ n = p.length + 1 := by omega
  · simp [checksumBytes]
  · simp [checksumBytes]

/-- At acceptance no byte step has been taken. -/
theorem InFlight.reached_start {s : State} {i : Instr} {work : Work} {input : Bytes} {acc : Word}
    (h : launch s i = .started work input acc) (ticket : Nat) :
    (InFlight.start ticket i work input acc).Reached s.romCrc acc := by
  cases work with
  | checksum => simp [Reached, start]
  | build p => simp [Reached, start, acc_eq_zero_of_launch_build h]
  | copy e => simp [Reached, start]
  | attitude => simp [Reached, start]

/-- A byte step that is still needed goes one step further. -/
theorem InFlight.Reached.byteStep {rom : RomCrc} {acc : Word} {l : InFlight} (h : l.Reached rom acc)
    (hleft : 0 < l.stepsLeft) (hatt : l.work = .attitude → 12 ≤ l.input.length) :
    (Machine.byteStep rom l).Reached rom acc ∧ (Machine.byteStep rom l).stepsLeft + 1 = l.stepsLeft := by
  unfold Reached at h
  unfold stepsLeft at hleft
  cases hw : l.work with
  | checksum =>
    simp only [hw] at h hleft
    obtain ⟨-, hacc⟩ := h
    have hb := List.getElem?_eq_getElem (Nat.lt_of_sub_pos hleft)
    rw [byteStep_checksum hw hb]
    simp only [Reached, stepsLeft, hw, hacc, crc16_take_succ _ _ _ _ _ hb]
    exact ⟨⟨by omega, trivial⟩, by omega⟩
  | build p =>
    simp only [hw] at h hleft
    obtain ⟨hle, hacc, hout⟩ := h
    rcases Nat.lt_or_ge l.idx p.length with hlt | hge
    · have hb := List.getElem?_eq_getElem hlt
      have hf : (withChecksum rom p)[l.idx]? = some p[l.idx] := by
        rw [withChecksum, List.getElem?_append_left hlt, hb]
      rw [byteStep_build_body hw hb]
      simp only [Reached, stepsLeft, hw, hacc, hout, crc16_take_succ _ _ _ _ _ hb, memWrite_take hf]
      exact ⟨⟨by omega, trivial, trivial⟩, by omega⟩
    · have hall : l.acc = Machine.crc16 rom p 0 := by rw [hacc, List.take_of_length_le hge]
      have hf := withChecksum_getElem?_checksum rom p hge (Nat.lt_of_sub_pos hleft)
      rw [byteStep_build_checksum hw hge]
      simp only [Reached, stepsLeft, hw, hall, hout, memWrite_take hf, List.take_of_length_le (Nat.le_succ_of_le hge)]
      exact ⟨⟨by omega, trivial, trivial⟩, by omega⟩
  | copy e =>
    simp only [hw] at h hleft
    obtain ⟨-, hout⟩ := h
    have hb := List.getElem?_eq_getElem (Nat.lt_of_sub_pos hleft)
    rw [byteStep_copy hw hb]
    simp only [Reached, stepsLeft, hw, hout, memWrite_take hb]
    exact ⟨⟨by omega, trivial⟩, by omega⟩
  | attitude =>
    simp only [hw] at h hleft
    obtain ⟨hle, hidx, hfields⟩ := h
    have hlen := hatt hw
    obtain ⟨v, hv⟩ := attitudeField_isSome (data := l.input) (j := l.fields.length) (by omega)
    rw [byteStep_attitude hw hidx hv]
    simp only [Reached, stepsLeft, hw, hidx, List.length_append, List.length_singleton, List.range_succ, List.map_append,
      hfields, List.map_cons, List.map_nil, hv]
    exact ⟨⟨by omega, by omega, trivial⟩, by omega⟩

/-- While a byte step is needed there is no response. -/
theorem InFlight.response_eq_none {l : InFlight} (hleft : 0 < l.stepsLeft) : l.response = none := by
  unfold stepsLeft at hleft
  unfold response
  cases hw : l.work with
  | checksum => simp only [hw] at hleft; exact if_neg (by omega)
  | build p => simp only [hw] at hleft; exact if_neg (by omega)
  | copy e => simp only [hw] at hleft; exact if_neg (by omega)
  | attitude =>
    simp only [hw] at hleft
    have hnone : attitudeOf l.fields = none := by
      rw [← Option.not_isSome_iff_eq_none, attitudeOf_isSome_iff]
      omega
    simp only [hnone, Option.map_none]

/-- Where no byte step is needed any more, the response is the one the launch leads to. -/
theorem InFlight.Reached.response_eq_some {rom : RomCrc} {acc : Word} {l : InFlight} (h : l.Reached rom acc)
    (hleft : l.stepsLeft = 0) :
    ∃ r, l.response = some r ∧ (Launch.started l.work l.input acc).answer rom = .ok r := by
  unfold stepsLeft at hleft
  unfold Reached at h
  unfold response
  cases hw : l.work with
  | checksum =>
    simp only [hw] at h hleft
    obtain ⟨hle, hacc⟩ := h
    have hidx : l.idx = l.input.length := by omega
    exact ⟨_, if_pos hidx, by rw [hacc, hidx, List.take_length]; rfl⟩
  | build p =>
    simp only [hw] at h hleft
    obtain ⟨hle, -, hout⟩ := h
    have hidx : l.idx = p.length + 2 := by omega
    exact ⟨_, if_pos hidx, by rw [hout, hidx, ← withChecksum_length rom p, List.take_length]; rfl⟩
  | copy e =>
    simp only [hw] at h hleft
    obtain ⟨hle, hout⟩ := h
    have hidx : l.idx = e.length := by omega
    exact ⟨_, if_pos hidx, by rw [hout, hidx, List.take_length]; rfl⟩
  | attitude =>
    simp only [hw] at h hleft
    obtain ⟨hle, -, hfields⟩ := h
    have hlen : l.fields.length = 6 := by omega
    obtain ⟨a, ha⟩ := Option.isSome_iff_exists.mp ((attitudeOf_isSome_iff _).mpr hlen)
    refine ⟨.ofResult (.attitude a), by simp only [ha, Option.map_some], ?_⟩
    simp only [Launch.answer, attitudeIn_of_fields hlen hfields, ha, Option.map_some, Option.getD_some]

/-! ### Where the tables are the same -/

/-- Two states hold the same ROMs and the same configuration: all that an answer or a byte step reads. -/
structure State.SameTables (s t : State) : Prop where
  romCrc : t.romCrc = s.romCrc
  romFixed : t.romFixed = s.romFixed
  config : t.config = s.config

/-- Acceptance reads the fixed table and the configuration alone. -/
theorem State.SameTables.launch {s t : State} (h : s.SameTables t) (i : Instr) : launch t i = launch s i := by
  cases i <;> simp only [Machine.launch, h.config, h.romFixed]

/-- An answer reads the ROMs and the configuration alone (20_memory.md R49, R52). -/
theorem State.SameTables.answer {s t : State} (h : s.SameTables t) (i : Instr) : answer t i = answer s i := by
  rw [answer_eq_launch_answer, answer_eq_launch_answer, h.launch, h.romCrc]

/-- The number of byte steps reads the fixed table and the configuration alone. -/
theorem State.SameTables.byteSteps {s t : State} (h : s.SameTables t) (i : Instr) : byteSteps t i = byteSteps s i := by
  cases i <;> simp only [Machine.byteSteps, h.config, h.romFixed]

/-- Whether a request in progress is where its byte steps brought it depends on the tables alone. -/
theorem State.SameTables.consistent {s t : State} (h : s.SameTables t) {l : InFlight} (hl : l.Consistent s) :
    l.Consistent t := by
  rw [InFlight.consistent_iff] at hl ⊢
  rwa [h.romCrc, h.launch]

/-- Delivering a response keeps the tables. -/
theorem State.SameTables.deliver (s : State) (i : Instr) (r : Response) : s.SameTables (s.deliver i r) := ⟨rfl, rfl, rfl⟩

/-- A byte step keeps the tables. -/
theorem State.SameTables.advance (s : State) (ticket : Nat) : s.SameTables (s.advance ticket) :=
  ⟨s.advance_romCrc ticket, s.advance_romFixed ticket, s.advance_config ticket⟩

/-- A transaction keeps the tables. -/
theorem State.SameTables.exec {s t : State} {i : Instr} (h : exec i s = .next t) : s.SameTables t := by
  obtain ⟨r, -, rfl⟩ := exec_next h
  exact .deliver s i r

/-- An acceptance keeps the tables. -/
theorem State.SameTables.accept {s t : State} {i : Instr} (h : s.accept i = .next t) : s.SameTables t := by
  obtain ⟨r, -, rfl⟩ | ⟨_, _, _, r, -, -, rfl⟩ | ⟨_, _, _, -, -, rfl⟩ := State.accept_next h
  · exact .deliver s i r
  · exact .deliver s i r
  · exact ⟨rfl, rfl, rfl⟩

/-- No step changes the tables: taking the event off the host's list leaves them, and so does what the event does. -/
theorem State.SameTables.step {s t : State} (h : step s = .next t) : s.SameTables t := by
  obtain ⟨-, rfl⟩ | ⟨_, _, _, -, -, h⟩ | ⟨_, _, _, -, -, h⟩ | ⟨ticket, _, -, rfl⟩ | ⟨_, -, rfl⟩ :=
    step_next h
  · exact ⟨rfl, rfl, rfl⟩
  · exact ⟨(exec h).romCrc, (exec h).romFixed, (exec h).config⟩
  · exact ⟨(accept h).romCrc, (accept h).romFixed, (accept h).config⟩
  · exact ⟨(advance _ ticket).romCrc, (advance _ ticket).romFixed, (advance _ ticket).config⟩
  · exact ⟨rfl, rfl, rfl⟩

/-- Settles O38: no step changes the tables. -/
theorem noStepWritesTheRoms : Obligations.NoStepWritesTheRoms := by
  intro s t h
  obtain ⟨hcrc, hfixed, hconfig⟩ := State.SameTables.step h
  exact ⟨hcrc, hfixed, hconfig⟩

/-- Settles O33: every meaning that answers delivers one response. -/
theorem requestLeavesTheBlockUnchanged : Obligations.RequestLeavesTheBlockUnchanged := by
  intro s t i h
  obtain ⟨r, -, rfl⟩ := exec_next h
  exact ⟨rfl, rfl, rfl, rfl, rfl, rfl, r, rfl⟩

/-! ### A request in a good state -/

/-- A launch's response at acceptance, or its refusal, is the answer the request is owed. -/
theorem answer_of_launch {s : State} {i : Instr} {launched : Launch} (h : launch s i = launched) :
    answer s i = launched.answer s.romCrc := by
  rw [answer_eq_launch_answer, h]

/-- A request just started is answered as it is owed, or is consistent and needs all its byte steps. -/
theorem InFlight.start_cases {s : State} {i : Instr} {work : Work} {input : Bytes} {acc : Word}
    (h : launch s i = .started work input acc) (ticket : Nat) :
    (byteSteps s i = 0 ∧ ∃ r, (start ticket i work input acc).response = some r ∧ answer s i = .ok r) ∨
    (0 < byteSteps s i ∧ (start ticket i work input acc).response = none ∧
      (start ticket i work input acc).Consistent s) := by
  have hreached := InFlight.reached_start h ticket
  have hsteps := InFlight.stepsLeft_start h ticket
  rcases Nat.eq_zero_or_pos (byteSteps s i) with hzero | hpos
  · obtain ⟨r, hr, ha⟩ := hreached.response_eq_some (hsteps.trans hzero)
    exact .inl ⟨hzero, r, hr, (answer_of_launch h).trans ha⟩
  · rw [← hsteps] at hpos
    exact .inr ⟨hsteps ▸ hpos, response_eq_none hpos,
      (consistent_iff _ _).mpr ⟨rfl, acc, h, hreached, hpos⟩⟩

/-- A byte step of a consistent request answers it as it is owed, where it was the last one; otherwise the request stays
consistent and needs one byte step fewer. -/
theorem InFlight.Consistent.byteStep_cases {s : State} {l : InFlight} (h : l.Consistent s) :
    (l.stepsLeft = 1 ∧ ∃ r, (byteStep s.romCrc l).response = some r ∧ answer s l.request = .ok r) ∨
    ((byteStep s.romCrc l).response = none ∧ (byteStep s.romCrc l).Consistent s ∧
      (byteStep s.romCrc l).stepsLeft + 1 = l.stepsLeft) := by
  obtain ⟨hbusy, acc, hlaunch, hreached, hleft⟩ := (consistent_iff s l).mp h
  obtain ⟨hnext, hsteps⟩ := hreached.byteStep hleft fun hw => twelve_le_of_launch_attitude (hw ▸ hlaunch)
  rcases Nat.eq_zero_or_pos (byteStep s.romCrc l).stepsLeft with hzero | hpos
  · obtain ⟨r, hr, ha⟩ := hnext.response_eq_some hzero
    rw [byteStep_work, byteStep_input] at ha
    exact .inl ⟨by omega, r, hr, (answer_of_launch hlaunch).trans ha⟩
  · refine .inr ⟨response_eq_none hpos, (consistent_iff _ _).mpr ⟨?_, acc, ?_, hnext, hpos⟩, hsteps⟩
    · rw [byteStep_phase, hbusy]
    · rw [byteStep_request, byteStep_work, byteStep_input, hlaunch]

/-- The byte step of a consistent request that is answered by it gives the owed answer, and is the last one needed. -/
theorem InFlight.Consistent.byteStep_of_some {s : State} {l : InFlight} (h : l.Consistent s) {r : Response}
    (hr : (byteStep s.romCrc l).response = some r) : answer s l.request = .ok r ∧ l.stepsLeft = 1 := by
  obtain ⟨hlast, r', hr', ha⟩ | ⟨hnone, -, -⟩ := h.byteStep_cases
  · obtain rfl := Option.some.inj (hr.symm.trans hr')
    exact ⟨ha, hlast⟩
  · simp [hr] at hnone

/-- The byte step of a consistent request that is not answered by it leaves a consistent one. -/
theorem InFlight.Consistent.byteStep_of_none {s : State} {l : InFlight} (h : l.Consistent s)
    (hnone : (byteStep s.romCrc l).response = none) :
    (byteStep s.romCrc l).Consistent s ∧ (byteStep s.romCrc l).stepsLeft + 1 = l.stepsLeft := by
  obtain ⟨-, r, hr, -⟩ | ⟨-, hrest⟩ := h.byteStep_cases
  · simp [hr] at hnone
  · exact hrest

/-- Everything an acceptance can do: refuse the request, deliver the answer it is owed, or add a consistent request that
needs all its byte steps. -/
theorem State.accept_cases (s : State) (i : Instr) :
    (∃ e, answer s i = .error e ∧ s.accept i = .refused e) ∨
    (∃ r, answer s i = .ok r ∧ s.accept i = .next (s.deliver i r)) ∨
    (∃ l, l.ticket = s.nextTicket ∧ l.request = i ∧ l.Consistent s ∧ l.stepsLeft = byteSteps s i ∧
      s.accept i = .next { s with inProgress := s.inProgress ++ [l], nextTicket := s.nextTicket + 1 }) := by
  cases hlaunch : launch s i with
  | refuse e => exact .inl ⟨e, answer_of_launch hlaunch, by simp only [accept, hlaunch]⟩
  | answered r => exact .inr (.inl ⟨r, answer_of_launch hlaunch, by simp only [accept, hlaunch]⟩)
  | started work input acc =>
    obtain ⟨-, r, hr, ha⟩ | ⟨-, hnone, hl⟩ := InFlight.start_cases hlaunch s.nextTicket
    · exact .inr (.inl ⟨r, ha, by simp only [accept, hlaunch, hr]⟩)
    · exact .inr (.inr ⟨_, rfl, rfl, hl, InFlight.stepsLeft_start hlaunch _, by simp only [accept, hlaunch, hnone]⟩)

/-! ### Tickets -/

/-- The tickets in use: of the responses delivered, then of the requests in progress (log 7). -/
def State.tickets (s : State) : List Nat := s.responses.map Delivered.ticket ++ s.inProgress.map InFlight.ticket

/-- Delivering a response uses the next ticket. -/
theorem State.tickets_deliver (s : State) (i : Instr) (r : Response) :
    (s.deliver i r).tickets.Perm (s.nextTicket :: s.tickets) := by
  simp only [tickets, deliver_responses, deliver_inProgress, List.map_append, List.map_cons, List.map_nil, List.append_assoc,
    List.singleton_append]
  exact List.perm_middle

/-- The requests in progress with one of them replaced by its byte step have the same tickets. -/
theorem map_ticket_byteStep (rom : RomCrc) {l : InFlight} {ticket : Nat} (hl : l.ticket = ticket) (ms : List InFlight) :
    (ms.map fun m => if m.ticket = ticket then byteStep rom l else m).map InFlight.ticket = ms.map InFlight.ticket := by
  rw [List.map_map]
  refine List.map_congr_left fun m _ => ?_
  by_cases hm : m.ticket = ticket
  · simp [hm, hl]
  · simp [hm]

/-- Where tickets are unique, discarding the requests with a ticket in use discards that ticket once. -/
theorem ticket_cons_filter_perm {ms : List InFlight} {l : InFlight} (hl : l ∈ ms)
    (hnodup : (ms.map InFlight.ticket).Nodup) :
    (l.ticket :: (ms.filter fun m => m.ticket != l.ticket).map InFlight.ticket).Perm (ms.map InFlight.ticket) := by
  have hfilter : (ms.filter fun m => m.ticket != l.ticket).map InFlight.ticket =
      (ms.map InFlight.ticket).erase l.ticket := by
    rw [hnodup.erase_eq_filter, List.filter_map]
    rfl
  rw [hfilter]
  exact (List.perm_cons_erase (List.mem_map_of_mem hl)).symm

/-- A byte step, also one that delivers a response, leaves the same tickets in use. -/
theorem State.tickets_advance {s : State} (hnodup : s.tickets.Nodup) (ticket : Nat) :
    (s.advance ticket).tickets.Perm s.tickets := by
  obtain ⟨-, h⟩ | ⟨l, r, hl, -, h⟩ | ⟨l, hl, -, h⟩ := s.advance_cases ticket
  · rw [h]
  · obtain ⟨hmem, rfl, -⟩ := State.inFlight?_some hl
    rw [h]
    simp only [tickets, List.map_append, List.map_cons, List.map_nil, List.append_assoc, List.singleton_append]
    exact (ticket_cons_filter_perm hmem hnodup.of_append_right).append_left _
  · obtain ⟨-, hticket, -⟩ := State.inFlight?_some hl
    rw [h]
    simp only [tickets, map_ticket_byteStep _ hticket]
    exact .rfl

/-! ### The invariant -/

/-- A state with the tables of a good one is good where its requests in progress, its responses and its tickets are. -/
theorem State.Inv.of_sameTables {s t : State} (h : s.Inv) (htables : s.SameTables t)
    (hprogress : ∀ l ∈ t.inProgress, l.Consistent s)
    (hresponses : ∀ d ∈ t.responses, answer s d.request = .ok d.response)
    (hunique : t.tickets.Nodup) (hused : ∀ n ∈ t.tickets, n < t.nextTicket) : t.Inv where
  romCrc := htables.romCrc.trans h.romCrc
  romFixed_nonempty := htables.romFixed ▸ h.romFixed_nonempty
  romFixed_wf := htables.romFixed ▸ h.romFixed_wf
  layout := htables.config ▸ h.layout
  inProgress := fun l hl => htables.consistent (hprogress l hl)
  responses := fun d hd => (htables.answer d.request).trans (hresponses d hd)
  tickets_unique := hunique
  tickets_used := hused

/-- The invariant says nothing of what the host does next. -/
theorem State.Inv.withEvents {s : State} (h : s.Inv) (events : List HostEvent) : State.Inv { s with events := events } :=
  h.of_sameTables ⟨rfl, rfl, rfl⟩ h.inProgress h.responses h.tickets_unique h.tickets_used

/-- The next ticket is not in use. -/
theorem State.Inv.nextTicket_not_mem {s : State} (h : s.Inv) : s.nextTicket ∉ s.tickets :=
  fun hmem => Nat.lt_irrefl _ (h.tickets_used _ hmem)

/-- Using the next ticket and no other new one keeps tickets unique and below the counter. -/
theorem State.Inv.tickets_cons {s : State} (h : s.Inv) {used : List Nat} (hused : used.Perm (s.nextTicket :: s.tickets)) :
    used.Nodup ∧ ∀ n ∈ used, n < s.nextTicket + 1 := by
  refine ⟨hused.nodup_iff.mpr (List.nodup_cons.mpr ⟨h.nextTicket_not_mem, h.tickets_unique⟩), fun n hn => ?_⟩
  rcases List.mem_cons.mp (hused.mem_iff.mp hn) with rfl | hn
  · exact Nat.lt_succ_self _
  · exact Nat.lt_succ_of_lt (h.tickets_used n hn)

/-- Delivering the response a request is owed keeps the invariant. -/
theorem State.Inv.deliver {s : State} (h : s.Inv) {i : Instr} {r : Response} (hr : answer s i = .ok r) :
    (s.deliver i r).Inv := by
  obtain ⟨hunique, hused⟩ := h.tickets_cons (s.tickets_deliver i r)
  refine h.of_sameTables (.deliver s i r) h.inProgress (fun d hd => ?_) hunique hused
  rcases List.mem_append.mp hd with hd | hd
  · exact h.responses d hd
  · obtain rfl := List.mem_singleton.mp hd
    exact hr

/-- Starting a request keeps the invariant. -/
theorem State.Inv.start {s : State} (h : s.Inv) {l : InFlight} (hl : l.Consistent s) (hticket : l.ticket = s.nextTicket) :
    State.Inv { s with inProgress := s.inProgress ++ [l], nextTicket := s.nextTicket + 1 } := by
  have hperm : (s.tickets ++ [l.ticket]).Perm (s.nextTicket :: s.tickets) := by
    rw [hticket]
    exact List.perm_append_singleton _ _
  obtain ⟨hunique, hused⟩ := h.tickets_cons hperm
  refine h.of_sameTables ⟨rfl, rfl, rfl⟩ (fun m hm => ?_) h.responses ?_ ?_
  · rcases List.mem_append.mp hm with hm | hm
    · exact h.inProgress m hm
    · obtain rfl := List.mem_singleton.mp hm
      exact hl
  · simpa [tickets] using hunique
  · simpa [tickets] using hused

/-- Acceptance keeps the invariant. -/
theorem State.Inv.accept {s t : State} (h : s.Inv) {i : Instr} (hstep : s.accept i = .next t) : t.Inv := by
  obtain ⟨e, -, heq⟩ | ⟨r, hr, heq⟩ | ⟨l, hticket, -, hl, -, heq⟩ := s.accept_cases i
  · cases heq.symm.trans hstep
  · cases heq.symm.trans hstep
    exact h.deliver hr
  · cases heq.symm.trans hstep
    exact h.start hl hticket

/-- A byte step keeps the invariant. -/
theorem State.Inv.advance {s : State} (h : s.Inv) (ticket : Nat) : (s.advance ticket).Inv := by
  have hperm := State.tickets_advance h.tickets_unique ticket
  have hunique := hperm.nodup_iff.mpr h.tickets_unique
  have hused : ∀ n ∈ (s.advance ticket).tickets, n < (s.advance ticket).nextTicket := fun n hn => by
    rw [State.advance_nextTicket]
    exact h.tickets_used n (hperm.mem_iff.mp hn)
  refine h.of_sameTables (.advance s ticket) ?_ ?_ hunique hused
  · intro m hm
    obtain ⟨-, heq⟩ | ⟨l, r, -, -, heq⟩ | ⟨l, hl, hnone, heq⟩ := s.advance_cases ticket <;> rw [heq] at hm
    · exact h.inProgress m hm
    · exact h.inProgress m (List.mem_of_mem_filter hm)
    · obtain ⟨m₀, hm₀, rfl⟩ := List.mem_map.mp hm
      split
      · exact ((h.inProgress l (State.inFlight?_some hl).1).byteStep_of_none hnone).1
      · exact h.inProgress m₀ hm₀
  · intro d hd
    obtain ⟨-, heq⟩ | ⟨l, r, hl, hr, heq⟩ | ⟨l, -, -, heq⟩ := s.advance_cases ticket <;> rw [heq] at hd
    · exact h.responses d hd
    · rcases List.mem_append.mp hd with hd | hd
      · exact h.responses d hd
      · obtain rfl := List.mem_singleton.mp hd
        exact ((h.inProgress l (State.inFlight?_some hl).1).byteStep_of_some hr).1
    · exact h.responses d hd

/-- Asserting reset keeps the invariant: nothing is in progress. -/
theorem State.Inv.assertReset {s : State} (h : s.Inv) : s.assertReset.Inv := by
  have hsub : s.assertReset.tickets.Sublist s.tickets :=
    (List.Sublist.refl _).append (List.nil_sublist _)
  exact h.of_sameTables ⟨rfl, rfl, rfl⟩ (fun _ hl => nomatch hl) h.responses (h.tickets_unique.sublist hsub)
    fun n hn => h.tickets_used n (hsub.subset hn)

/-- Settles O40: taking the event off the host's list keeps the invariant, and so does whatever the event does. -/
theorem everyStepKeepsTheMachineGood : Obligations.EveryStepKeepsTheMachineGood := by
  intro s t h hstep
  obtain ⟨-, rfl⟩ | ⟨_, rest, i, -, -, hexec⟩ | ⟨_, rest, i, -, -, haccept⟩ | ⟨ticket, rest, -, rfl⟩ |
      ⟨rest, -, rfl⟩ :=
    step_next hstep
  · exact h
  · obtain ⟨r, hr, rfl⟩ := exec_next hexec
    exact (h.withEvents rest).deliver hr
  · exact (h.withEvents rest).accept haccept
  · exact (h.withEvents rest).advance ticket
  · exact (h.withEvents rest).assertReset

/-- Settles O39: the ROMs hold R21's table and frames, the layout is the decided one, and nothing has been asked yet. -/
theorem resetIsGood : Obligations.ResetIsGood where
  romCrc := rfl
  romFixed_nonempty := resetFixedTableHoldsFrames.1
  romFixed_wf := resetFixedTableHoldsFrames.2
  layout := show CodecLayout.wf CodecLayout.default = true by decide
  inProgress := fun _ hl => nomatch hl
  responses := fun _ hd => nomatch hd
  tickets_unique := List.nodup_nil
  tickets_used := fun _ hn => nomatch hn

/-! ### Reset -/

/-- Settles O36: the reset state, field by field. -/
theorem resetStateHoldsTheRomsAndIsIdle : Obligations.ResetStateHoldsTheRomsAndIsIdle :=
  ⟨rfl, State.reset_romFixed, if_pos State.reset_inProgress, State.reset_inProgress, State.reset_responses⟩

/-- A byte step for a ticket of no request in progress changes nothing (log 15). -/
theorem State.advance_of_not_mem {s : State} {ticket : Nat} (h : ∀ l ∈ s.inProgress, l.ticket ≠ ticket) :
    s.advance ticket = s := by
  obtain ⟨-, heq⟩ | ⟨l, _, hl, -, -⟩ | ⟨l, hl, -, -⟩ := s.advance_cases ticket
  · exact heq
  · exact absurd (State.inFlight?_some hl).2.1 (h l (State.inFlight?_some hl).1)
  · exact absurd (State.inFlight?_some hl).2.1 (h l (State.inFlight?_some hl).1)

/-- Settles O37: with nothing in progress there is no ticket for a byte step to move. -/
theorem assertedResetAbandonsRequests : Obligations.AssertedResetAbandonsRequests := by
  intro s rest hevents
  refine ⟨State.assertReset { s with events := rest }, by rw [step_of_events_cons hevents]; rfl, if_pos rfl,
    rfl, rfl, rfl, rfl, rfl, rfl, rfl, fun ticket => State.advance_of_not_mem fun _ hl => nomatch hl⟩

/-! ### The CRC table -/

/-- Applying the bit step `n` times is its iterate. -/
theorem crcBitSteps_eq_iterate (n : Nat) (c : Word) : crcBitSteps n c = crcBitStep^[n] c := by
  induction n generalizing c with
  | zero => rfl
  | succ n ih => rw [crcBitSteps, ih, Function.iterate_succ_apply]

/-- The bit step in terms of bit 15. -/
theorem crcBitStep_eq : crcBitStep = fun c : Word => if c.getLsbD 15 then (c <<< 1) ^^^ 0x1021 else c <<< 1 := rfl

/-- R21's table, entry by entry, against its own rule. -/
theorem romCrcTable_getElem : ∀ i : Fin 256, romCrcTable[i] = crcBitSteps 8 (BitVec.ofNat 16 i.val <<< 8) := by
  decide +kernel

/-- Settles O8: every entry of R21's table is eight bit steps of its shifted index. -/
theorem romCrcEntriesAreEightDivisionSteps : Obligations.RomCrcEntriesAreEightDivisionSteps := by
  intro i
  rw [← crcBitStep_eq, ← crcBitSteps_eq_iterate]
  exact romCrcTable_getElem i

/-! ### CRC16 in the byte-serial engine -/

/-- Settles O41: a launch of no bytes has its response at once, one of some bytes has not. -/
theorem crc16Acceptance : Obligations.Crc16Acceptance := by
  intro s r rest data init hevents hdecode hadmit
  have hlaunch : launch { s with events := rest } (.crc16 data init) = .started .checksum data init := by
    simp only [launch, hadmit, if_true]
  rw [step_of_events_cons hevents, runEvent_accept_of_decode _ hdecode]
  constructor
  · rintro rfl
    simp only [State.accept, hlaunch]
    rfl
  · intro hdata
    have hnone : (InFlight.start s.nextTicket (.crc16 data init) .checksum data init).response = none :=
      if_neg fun h => hdata (List.length_eq_zero_iff.mp h.symm)
    simp only [State.accept, hlaunch, hnone]
    exact ⟨_, _, rfl, rfl, rfl, rfl, rfl, rfl, rfl, rfl, rfl, rfl⟩

/-- A byte step that answers its request delivers the response and ends the request (log 18). -/
theorem State.advance_of_response_some {s : State} {ticket : Nat} {l : InFlight} {r : Response}
    (hl : s.inFlight? ticket = some l) (hr : (byteStep s.romCrc l).response = some r) :
    s.advance ticket = { s with
      inProgress := s.inProgress.filter fun m => m.ticket != ticket
      responses := s.responses ++ [⟨l.ticket, l.request, r⟩] } := by
  simp only [advance, hl, hr]

/-- A byte step that does not answer its request leaves it one byte step on. -/
theorem State.advance_of_response_none {s : State} {ticket : Nat} {l : InFlight} (hl : s.inFlight? ticket = some l)
    (hnone : (byteStep s.romCrc l).response = none) :
    s.advance ticket = { s with
      inProgress := s.inProgress.map fun m => if m.ticket = ticket then byteStep s.romCrc l else m } := by
  simp only [advance, hl, hnone]

/-- A byte step that does not answer its request leaves it, one byte step on, under its ticket. -/
theorem State.inFlight?_advance {s : State} {ticket : Nat} {l : InFlight} (hl : s.inFlight? ticket = some l)
    (hnone : (byteStep s.romCrc l).response = none) :
    (s.advance ticket).inFlight? ticket = some (byteStep s.romCrc l) := by
  obtain ⟨hmem, hticket, hbusy⟩ := State.inFlight?_some hl
  obtain ⟨m, hm⟩ : ∃ m, s.inProgress.find? (fun m => m.ticket == ticket) = some m :=
    Option.isSome_iff_exists.mp (List.find?_isSome.mpr ⟨l, hmem, beq_iff_eq.mpr hticket⟩)
  have hmticket : m.ticket = ticket := by simpa using List.find?_some hm
  have hpred : ((fun k : InFlight => k.ticket == ticket && k.phase == .busy) ∘
      fun k => if k.ticket = ticket then byteStep s.romCrc l else k) = fun k => k.ticket == ticket := by
    funext k
    by_cases hk : k.ticket = ticket
    · simp [hk, hticket, hbusy]
    · simp [hk]
  rw [State.advance_of_response_none hl hnone, inFlight?, List.find?_map, hpred, hm, Option.map_some, if_pos hmticket]

/-- A byte step of CRC16 answers exactly where it brings `idx` to the input's end (R109). -/
theorem byteStep_checksum_response {rom : RomCrc} {l : InFlight} {b : Byte} (hw : l.work = .checksum)
    (hb : l.input[l.idx]? = some b) :
    (byteStep rom l).response =
      if l.idx + 1 = l.input.length then some (.ofResult (.checksum (crcStep rom l.acc b))) else none := by
  rw [byteStep_checksum hw hb]
  simp only [InFlight.response, hw]

/-- Settles O42: the byte step folds the byte, and answers where `idx` comes to the input's end. -/
theorem crc16ByteStep : Obligations.Crc16ByteStep := by
  intro s ticket rest l b hevents hl hwork hb
  have hresponse := byteStep_checksum_response (rom := s.romCrc) hwork hb
  rw [step_of_events_cons hevents]
  refine ⟨fun hlast => ⟨_, rfl, ?_⟩, fun hmore => ⟨_, rfl, ?_⟩⟩
  · rw [if_pos hlast] at hresponse
    rw [State.advance_of_response_some (s := { s with events := rest }) hl hresponse, (State.inFlight?_some hl).2.1]
    exact ⟨List.filter_congr fun m _ => Bool.eq_iff_iff.mpr (by simp), rfl⟩
  · rw [if_neg hmore] at hresponse
    constructor
    · rw [State.advance_of_response_none (s := { s with events := rest }) hl hresponse]
    · rw [State.inFlight?_advance (s := { s with events := rest }) hl hresponse, byteStep_checksum hwork hb]

/-! ### The byte-serial run of one request -/

/-- In a good state the request with a ticket in use is the one in progress under it. -/
theorem State.Inv.inFlight?_of_mem {s : State} (h : s.Inv) {l : InFlight} (hl : l ∈ s.inProgress) :
    s.inFlight? l.ticket = some l := by
  have hsome : (s.inFlight? l.ticket).isSome := List.find?_isSome.mpr ⟨l, hl, by simp [(h.inProgress l hl).1]⟩
  obtain ⟨m, hm⟩ := Option.isSome_iff_exists.mp hsome
  obtain ⟨hmem, hticket, -⟩ := State.inFlight?_some hm
  rw [hm, List.inj_on_of_nodup_map h.tickets_unique.of_append_right hmem hl hticket]

/-- In a good state the requests before the newest one have other tickets. -/
theorem State.Inv.ticket_ne_newest {s : State} (h : s.Inv) {before : List InFlight} {l : InFlight}
    (hl : s.inProgress = before ++ [l]) : ∀ m ∈ before, m.ticket ≠ l.ticket := by
  have hnodup : (before.map InFlight.ticket ++ [l.ticket]).Nodup := by
    simpa [hl] using h.tickets_unique.of_append_right
  intro m hm heq
  exact List.disjoint_of_nodup_append hnodup (List.mem_map_of_mem hm) (by simp [heq])

/-- In a good state the newest request in progress, given the byte steps it still needs, is answered as it is owed, and
nothing else changes. -/
theorem State.Inv.iterate_advance_newest {s : State} (h : s.Inv) {before : List InFlight} {l : InFlight}
    (hl : s.inProgress = before ++ [l]) :
    ∃ r, answer s l.request = .ok r ∧ (fun v => v.advance l.ticket)^[l.stepsLeft] s =
      { s with inProgress := before, responses := s.responses ++ [⟨l.ticket, l.request, r⟩] } := by
  induction hn : l.stepsLeft generalizing s l with
  | zero =>
    obtain ⟨-, _, -, -, hpos⟩ := (InFlight.consistent_iff s l).mp (h.inProgress l (by simp [hl]))
    omega
  | succ n ih =>
    have hmem : l ∈ s.inProgress := by simp [hl]
    have hfound := h.inFlight?_of_mem hmem
    have hother := h.ticket_ne_newest hl
    obtain ⟨hone, r, hr, ha⟩ | ⟨hnone, -, hsteps⟩ := (h.inProgress l hmem).byteStep_cases
    · have hzero : n = 0 := by omega
      have hrest : s.inProgress.filter (fun m => m.ticket != l.ticket) = before := by
        rw [hl, List.filter_append, List.filter_eq_self.mpr fun m hm => bne_iff_ne.mpr (hother m hm)]
        simp
      exact ⟨r, ha, by rw [hzero, Function.iterate_one, State.advance_of_response_some hfound hr, hrest]⟩
    · have hadvance := State.advance_of_response_none hfound hnone
      have hprogress : (s.advance l.ticket).inProgress = before ++ [byteStep s.romCrc l] := by
        simp only [hadvance, hl, List.map_append, List.map_cons, List.map_nil, if_true]
        rw [List.map_congr_left fun m hm => if_neg (hother m hm), List.map_id']
      obtain ⟨r, ha, hrun⟩ := ih (h.advance l.ticket) hprogress (by omega)
      rw [byteStep_request, (State.SameTables.advance s l.ticket).answer] at ha
      rw [byteStep_request, byteStep_ticket, hadvance] at hrun
      exact ⟨r, ha, by rw [Function.iterate_succ_apply, hadvance, hrun]⟩

/-- A step that answers is the first of a run. -/
theorem runSteps_of_step_next {s t : State} (h : step s = .next t) (n : Nat) : runSteps (n + 1) s = runSteps n t := by
  simp only [runSteps, h]

/-- A step that refuses ends a run. -/
theorem runSteps_of_step_refused {s : State} {e : Refusal} (h : step s = .refused e) (n : Nat) :
    runSteps (n + 1) s = .refused e := by
  simp only [runSteps, h]

/-- A byte step reads and changes nothing of what the host does next. -/
theorem State.advance_withEvents (s : State) (events : List HostEvent) (ticket : Nat) :
    State.advance { s with events := events } ticket = { s.advance ticket with events := events } := by
  obtain ⟨hnot, heq⟩ | ⟨l, r, hl, hr, heq⟩ | ⟨l, hl, hnone, heq⟩ := s.advance_cases ticket <;> rw [heq]
  · simp only [advance, show State.inFlight? { s with events := events } ticket = none from hnot]
  · exact advance_of_response_some (s := { s with events := events }) hl hr
  · exact advance_of_response_none (s := { s with events := events }) hl hnone

/-- A run of byte steps of one ticket takes them all and leaves the events after them. -/
theorem runSteps_replicate_advance (ticket : Nat) (rest : List HostEvent) (n : Nat) (s : State) :
    runSteps n { s with events := List.replicate n (.advance ticket) ++ rest } =
      .next ((fun v => v.advance ticket)^[n] { s with events := rest }) := by
  induction n generalizing s with
  | zero => rfl
  | succ n ih =>
    have hstep : step { s with events := List.replicate (n + 1) (.advance ticket) ++ rest } =
        .next { s.advance ticket with events := List.replicate n (.advance ticket) ++ rest } :=
      congrArg _ (s.advance_withEvents _ ticket)
    rw [runSteps_of_step_next hstep, ih, Function.iterate_succ_apply, s.advance_withEvents rest]

/-- Settles O43: acceptance refuses the request, answers it at once, so that the byte steps find nothing in progress, or
starts it, so that the byte steps are the ones it needs. -/
theorem serialRunEqualsTransaction : Obligations.SerialRunEqualsTransaction := by
  intro s r rest i h hdecode hevents
  let queue := List.replicate (byteSteps s i) (HostEvent.advance s.nextTicket) ++ rest
  have htables : State.SameTables s { s with events := queue } := ⟨rfl, rfl, rfl⟩
  have hstep : step s = State.accept { s with events := queue } i := by
    rw [step_of_events_cons hevents, runEvent_accept_of_decode _ hdecode]
  have hanswer : answer { s with events := queue } i = answer { s with events := rest } i := by
    exact State.SameTables.answer ⟨rfl, rfl, rfl⟩ i
  obtain ⟨e, ha, heq⟩ | ⟨r, ha, heq⟩ | ⟨l, hticket, hrequest, hl, hsteps, heq⟩ :=
    State.accept_cases { s with events := queue } i
  · rw [runSteps_of_step_refused (hstep.trans heq), exec_of_answer_error (hanswer ▸ ha)]
  · have hfresh : ∀ l ∈ s.inProgress, l.ticket ≠ s.nextTicket := fun l hl hticket =>
      h.nextTicket_not_mem (hticket ▸ List.mem_append_right _ (List.mem_map_of_mem hl))
    rw [runSteps_of_step_next (hstep.trans heq), exec_of_answer_ok (hanswer ▸ ha)]
    refine (runSteps_replicate_advance _ rest _ (s.deliver i r)).trans (congrArg _ ?_)
    exact Function.iterate_fixed (State.advance_of_not_mem (s := { s.deliver i r with events := rest }) hfresh) _
  · have hgood := (h.withEvents rest).start (State.SameTables.consistent ⟨rfl, rfl, rfl⟩ hl) hticket
    obtain ⟨r, ha, hrun⟩ := hgood.iterate_advance_newest rfl
    rw [hticket, hrequest, hsteps, htables.byteSteps] at hrun
    rw [runSteps_of_step_next (hstep.trans heq), exec_of_answer_ok (s := { s with events := rest }) (r := r)]
    · exact (runSteps_replicate_advance _ rest _
        { s with inProgress := s.inProgress ++ [l], nextTicket := s.nextTicket + 1 }).trans (congrArg _ hrun)
    · rw [← hrequest, ← ha]
      exact (State.SameTables.answer ⟨rfl, rfl, rfl⟩ _).symm

end Sys2Proof.Machine
end

section
/-! What a byte step does to each request in progress, what a schedule of byte steps comes to, and the statements of
20_memory.md settled with them: a request placed by the host (R54), the same response to the same request (R49), nothing
delivered before the last byte step (R48), and requests in progress that interleave (R52). -/

namespace Sys2Proof.Machine

/-! ### A placed request -/

/-- A table number decodes where its request, with zero operands, does. -/
theorem decode_of_decodeTableWord {nbits w : Nat} {i : Instr} (h : decodeTableWord nbits w = some i) :
    decode (requestOfWord w) = .ok i := by
  unfold decodeTableWord at h
  split at h
  · next j hj => rw [hj, Option.some.inj h]
  · cases h

/-- Settles O7: the placed request is the first event, and taking it off again leaves `s`. -/
theorem placedWordRunsNext : Obligations.PlacedWordRunsNext := by
  intro s nbits w i hdecode
  rw [step_of_events_cons (s.withFetchWord_events nbits w),
    runEvent_request_of_decode _ (decode_of_decodeTableWord hdecode)]
  rfl

/-! ### The same request twice -/

/-- Settles O35: delivering the first response keeps the tables, and with them the answer. -/
theorem repeatedRequestGetsTheSameResponse : Obligations.RepeatedRequestGetsTheSameResponse := by
  intro s t i h
  obtain ⟨r, ha, rfl⟩ := exec_next h
  have hagain : answer (s.deliver i r) i = .ok r := ((State.SameTables.deliver s i r).answer i).trans ha
  exact ⟨r, _, exec_of_answer_ok hagain, by simp⟩

/-! ### A byte step, request by request -/

/-- What a byte step for `ticket` leaves of the request in progress `m`. -/
def State.leftOf (s : State) (ticket : Nat) (m : InFlight) : Option InFlight :=
  if m.ticket = ticket then
    match s.inFlight? ticket with
    | none => some m
    | some l => if (byteStep s.romCrc l).response.isSome then none else some (byteStep s.romCrc l)
  else some m

/-- The responses a byte step for `ticket` delivers: one or none. -/
def State.deliveredBy (s : State) (ticket : Nat) : List Delivered :=
  ((s.inFlight? ticket).bind fun l => (byteStep s.romCrc l).response.map fun r => ⟨l.ticket, l.request, r⟩).toList

/-- A byte step leaves the requests with other tickets as they are. -/
theorem State.leftOf_of_ne (s : State) {ticket : Nat} {m : InFlight} (h : m.ticket ≠ ticket) :
    s.leftOf ticket m = some m := if_neg h

/-- What a byte step leaves of a request has the request's ticket. -/
theorem State.ticket_of_leftOf {s : State} {ticket : Nat} {m m' : InFlight} (h : s.leftOf ticket m = some m') :
    m'.ticket = m.ticket := by
  unfold leftOf at h
  split at h
  · next hm =>
    split at h
    · rw [Option.some.inj h]
    · next l hl =>
      split at h
      · cases h
      · rw [← Option.some.inj h, byteStep_ticket, (State.inFlight?_some hl).2.1, hm]
  · rw [Option.some.inj h]

/-- A byte step as one update: of the requests in progress one by one, and of the responses at their end. -/
theorem State.advance_eq (s : State) (ticket : Nat) :
    s.advance ticket = { s with
      inProgress := s.inProgress.filterMap (s.leftOf ticket)
      responses := s.responses ++ s.deliveredBy ticket } := by
  obtain ⟨hl, heq⟩ | ⟨l, r, hl, hr, heq⟩ | ⟨l, hl, hnone, heq⟩ := s.advance_cases ticket
  · have hleft : s.leftOf ticket = some := by funext m; simp [leftOf, hl]
    rw [heq, hleft]
    simp [deliveredBy, hl]
  · have hleft : s.leftOf ticket = Option.guard fun m => m.ticket != ticket := by
      funext m; by_cases hm : m.ticket = ticket <;> simp [leftOf, hl, hr, hm, Option.guard]
    rw [heq, hleft, List.filterMap_eq_filter]
    simp [deliveredBy, hl, hr]
  · have hleft : s.leftOf ticket = some ∘ fun m => if m.ticket = ticket then byteStep s.romCrc l else m := by
      funext m; by_cases hm : m.ticket = ticket <;> simp [leftOf, hl, hnone, hm]
    rw [heq, hleft, List.filterMap_eq_map]
    simp [deliveredBy, hl, hnone]

/-- What a byte step for `a` leaves of a request is found under another ticket exactly where the request is. -/
theorem State.any_leftOf_of_ne (s : State) {a b : Nat} (h : a ≠ b) (m : InFlight) :
    ((s.leftOf a m).any fun k => k.ticket == b && k.phase == .busy) = (m.ticket == b && m.phase == .busy) := by
  by_cases hm : m.ticket = a
  · have hb : (m.ticket == b) = false := beq_false_of_ne (hm.trans_ne h)
    cases hk : s.leftOf a m with
    | none => simp only [Option.any_none, hb, Bool.false_and]
    | some k => simp only [Option.any_some, ticket_of_leftOf hk, hb, Bool.false_and]
  · rw [s.leftOf_of_ne hm, Option.any_some]

/-- A byte step does not change which request is found under another ticket. -/
theorem State.inFlight?_advance_of_ne (s : State) {a b : Nat} (h : a ≠ b) :
    (s.advance a).inFlight? b = s.inFlight? b := by
  have hfind : (s.advance a).inFlight? b = (s.inFlight? b).bind (s.leftOf a) := by
    rw [s.advance_eq, inFlight?, List.find?_filterMap, funext (s.any_leftOf_of_ne h), ← inFlight?]
  rw [hfind]
  cases hl : s.inFlight? b with
  | none => rfl
  | some l => exact s.leftOf_of_ne ((State.inFlight?_some hl).2.1.trans_ne h.symm)

/-- A byte step does not change what one for another ticket leaves of a request. -/
theorem State.leftOf_advance_of_ne (s : State) {a b : Nat} (h : a ≠ b) : (s.advance a).leftOf b = s.leftOf b := by
  funext m
  simp only [leftOf, s.inFlight?_advance_of_ne h, advance_romCrc]

/-- A byte step does not change what one for another ticket delivers. -/
theorem State.deliveredBy_advance_of_ne (s : State) {a b : Nat} (h : a ≠ b) :
    (s.advance a).deliveredBy b = s.deliveredBy b := by
  simp only [deliveredBy, s.inFlight?_advance_of_ne h, advance_romCrc]

/-- For a request whose ticket is not `b`, a byte step for `b` before or after one for `a` makes no difference. -/
theorem State.leftOf_comm_of_ne (s : State) (a : Nat) {b : Nat} {m : InFlight} (h : m.ticket ≠ b) :
    (s.leftOf a m).bind (s.leftOf b) = (s.leftOf b m).bind (s.leftOf a) := by
  rw [s.leftOf_of_ne h, Option.bind_some]
  cases hm : s.leftOf a m with
  | none => rfl
  | some m' => exact s.leftOf_of_ne ((ticket_of_leftOf hm).trans_ne h)

/-- What byte steps for two tickets leave of a request does not depend on their order. -/
theorem State.leftOf_comm (s : State) {a b : Nat} (h : a ≠ b) (m : InFlight) :
    (s.leftOf a m).bind (s.leftOf b) = (s.leftOf b m).bind (s.leftOf a) := by
  by_cases hb : m.ticket = b
  · exact (s.leftOf_comm_of_ne b (hb.trans_ne h.symm)).symm
  · exact s.leftOf_comm_of_ne a hb

/-- Byte steps for two tickets as one update, each part of it as it is in `s`. -/
theorem State.advance_advance_of_ne (s : State) {a b : Nat} (h : a ≠ b) :
    (s.advance a).advance b = { s with
      inProgress := s.inProgress.filterMap fun m => (s.leftOf a m).bind (s.leftOf b)
      responses := s.responses ++ (s.deliveredBy a ++ s.deliveredBy b) } := by
  rw [State.advance_eq (s.advance a), s.leftOf_advance_of_ne h, s.deliveredBy_advance_of_ne h, s.advance_eq a,
    List.filterMap_filterMap, List.append_assoc]

/-- Settles O47: the two byte steps act on each request in progress in either order alike, and each delivers what it
delivers in the other order. -/
theorem byteStepsOfTwoRequestsCommute : Obligations.ByteStepsOfTwoRequestsCommute := by
  intro s a b hab
  rw [s.advance_advance_of_ne hab, s.advance_advance_of_ne hab.symm]
  exact ⟨List.filterMap_congr fun m _ => s.leftOf_comm hab m, List.perm_append_comm.append_left _, rfl, rfl⟩

/-! ### A request in progress under a schedule of byte steps -/

/-- A request in progress still needs a byte step. -/
theorem InFlight.Consistent.stepsLeft_pos {s : State} {l : InFlight} (h : l.Consistent s) : 0 < l.stepsLeft := by
  obtain ⟨-, _, -, -, hpos⟩ := (InFlight.consistent_iff s l).mp h
  exact hpos

/-- A request in progress needs no more byte steps than its request takes. -/
theorem InFlight.Consistent.stepsLeft_le {s : State} {l : InFlight} (h : l.Consistent s) :
    l.stepsLeft ≤ byteSteps s l.request := by
  obtain ⟨-, acc, hlaunch, -, -⟩ := (InFlight.consistent_iff s l).mp h
  rw [← InFlight.stepsLeft_start hlaunch l.ticket]
  unfold stepsLeft
  cases hw : l.work <;> exact Nat.sub_le_sub_left (Nat.zero_le _) _

/-- A byte step leaves a request with another ticket in progress. -/
theorem State.mem_advance_of_ne {s : State} {l : InFlight} (hl : l ∈ s.inProgress) {ticket : Nat}
    (h : l.ticket ≠ ticket) : l ∈ (s.advance ticket).inProgress := by
  rw [s.advance_eq]
  exact List.mem_filterMap.mpr ⟨l, hl, s.leftOf_of_ne h⟩

/-- In a good state a request's own byte step delivers the answer it is owed, where it is the last one; otherwise it
delivers nothing and leaves the request in progress, one byte step on. -/
theorem State.Inv.advance_own {s : State} (h : s.Inv) {l : InFlight} (hl : l ∈ s.inProgress) :
    (l.stepsLeft = 1 ∧ ∃ r, answer s l.request = .ok r ∧
      (s.advance l.ticket).responses = s.responses ++ [⟨l.ticket, l.request, r⟩]) ∨
    ((s.advance l.ticket).responses = s.responses ∧ byteStep s.romCrc l ∈ (s.advance l.ticket).inProgress ∧
      (byteStep s.romCrc l).stepsLeft + 1 = l.stepsLeft) := by
  have hfound := h.inFlight?_of_mem hl
  obtain ⟨hone, r, hr, ha⟩ | ⟨hnone, -, hsteps⟩ := (h.inProgress l hl).byteStep_cases
  · exact .inl ⟨hone, r, ha, by rw [State.advance_of_response_some hfound hr]⟩
  · refine .inr ⟨by rw [State.advance_of_response_none hfound hnone], ?_, hsteps⟩
    exact (State.inFlight?_some (State.inFlight?_advance hfound hnone)).1

/-- Byte steps keep the responses already delivered. -/
theorem State.responses_subset_foldl_advance (schedule : List Nat) (s : State) :
    s.responses ⊆ (schedule.foldl State.advance s).responses := by
  induction schedule generalizing s with
  | nil => exact List.Subset.refl _
  | cons ticket schedule ih =>
    refine List.Subset.trans ?_ (ih (s.advance ticket))
    rw [s.advance_eq]
    exact List.subset_append_left _ _

/-- In a good state a schedule with as many byte steps of a request in progress as it still needs delivers the answer it is
owed, whatever byte steps of other requests lie between. -/
theorem State.Inv.answered_of_stepsLeft_le_count {s : State} (h : s.Inv) {l : InFlight} (hl : l ∈ s.inProgress)
    {schedule : List Nat} (hcount : l.stepsLeft ≤ schedule.count l.ticket) :
    ∃ r, answer s l.request = .ok r ∧ ⟨l.ticket, l.request, r⟩ ∈ (schedule.foldl State.advance s).responses := by
  induction schedule generalizing s l with
  | nil => exact absurd (h.inProgress l hl).stepsLeft_pos (Nat.not_lt_of_le hcount)
  | cons ticket schedule ih =>
    have htables := State.SameTables.advance s ticket
    rw [List.foldl_cons, ← htables.answer]
    by_cases hticket : ticket = l.ticket
    · subst hticket
      rw [List.count_cons_self] at hcount
      obtain ⟨-, r, ha, hr⟩ | ⟨-, hmem, hsteps⟩ := h.advance_own hl
      · exact ⟨r, (htables.answer _).trans ha,
          State.responses_subset_foldl_advance schedule _ (by simp [hr])⟩
      · simpa only [byteStep_ticket, byteStep_request] using
          ih (h.advance l.ticket) hmem (by rw [byteStep_ticket]; omega)
    · rw [List.count_cons_of_ne hticket] at hcount
      exact ih (h.advance ticket) (State.mem_advance_of_ne hl (Ne.symm hticket)) hcount

/-- A run of byte steps takes them all and leaves the events after them. -/
theorem runSteps_advances (schedule : List Nat) (rest : List HostEvent) (s : State) :
    runSteps schedule.length { s with events := schedule.map HostEvent.advance ++ rest } =
      .next (schedule.foldl State.advance { s with events := rest }) := by
  induction schedule generalizing s with
  | nil => rfl
  | cons ticket schedule ih =>
    have hstep : step { s with events := (ticket :: schedule).map HostEvent.advance ++ rest } =
        .next { s.advance ticket with events := schedule.map HostEvent.advance ++ rest } :=
      congrArg _ (s.advance_withEvents _ ticket)
    rw [List.length_cons, runSteps_of_step_next hstep, ih, List.foldl_cons, s.advance_withEvents rest]

/-- Settles O46: the byte steps the request takes are no fewer than those it still needs. -/
theorem everyInterleavingAnswersTheRequest : Obligations.EveryInterleavingAnswersTheRequest := by
  intro s l schedule rest h hl hevents hcount
  have hneeded : l.stepsLeft ≤ schedule.count l.ticket := (h.inProgress l hl).stepsLeft_le.trans hcount
  obtain ⟨r, ha, hmem⟩ := (h.withEvents rest).answered_of_stepsLeft_le_count hl hneeded
  have hanswer : answer s l.request = .ok r := (State.SameTables.answer ⟨rfl, rfl, rfl⟩ _).trans ha
  refine ⟨_, r, ?_, exec_of_answer_ok hanswer, hmem⟩
  rw [← runSteps_advances, ← hevents]

/-! ### Before a request's last byte step -/

/-- A request that is answered at acceptance without having started takes no byte step. -/
theorem byteSteps_of_launch_answered {s : State} {i : Instr} {r : Response} (h : launch s i = .answered r) :
    byteSteps s i = 0 := by
  cases i with
  | decodeAttitude data =>
    simp only [launch] at h
    split at h
    · cases h
    · next hstatus => simp only [byteSteps, hstatus]
  | crc16 data init => simp only [launch] at h; split at h <;> cases h
  | encodeFixed k => simp only [launch] at h; split at h <;> cases h
  | encodeSetCodecSpec stream encType width height bitrate =>
    simp only [launch, launchFrame] at h; split at h <;> cases h
  | encodeSetYawPitchSpeed yaw pitch => cases h
  | encodeSetYawPitchAngle yaw pitch => cases h
  | encodeSetUtcTime timestamp => cases h
  | encodeGetCodecSpec stream => cases h

/-- The acceptance of a request that is owed a response and takes byte steps adds a consistent request that needs them
all. -/
theorem State.accept_of_byteSteps_pos {s : State} {i : Instr} {r : Response} (ha : answer s i = .ok r)
    (hpos : 0 < byteSteps s i) :
    ∃ l, l.ticket = s.nextTicket ∧ l.Consistent s ∧ l.stepsLeft = byteSteps s i ∧
      s.accept i = .next { s with inProgress := s.inProgress ++ [l], nextTicket := s.nextTicket + 1 } := by
  cases hlaunch : launch s i with
  | refuse e => cases ha.symm.trans (answer_of_launch hlaunch)
  | answered r => exact absurd (byteSteps_of_launch_answered hlaunch) hpos.ne'
  | started work input acc =>
    obtain ⟨hzero, -⟩ | ⟨-, hnone, hl⟩ := InFlight.start_cases hlaunch s.nextTicket
    · exact absurd hzero hpos.ne'
    · exact ⟨_, rfl, hl, InFlight.stepsLeft_start hlaunch _, by simp only [accept, hlaunch, hnone]⟩

/-- In a good state a request in progress, given fewer byte steps than it still needs, has delivered nothing and is still
in progress. -/
theorem State.Inv.iterate_advance_unfinished {s : State} (h : s.Inv) {l : InFlight} (hl : l ∈ s.inProgress) {n : Nat}
    (hn : n < l.stepsLeft) :
    ((fun v => v.advance l.ticket)^[n] s).responses = s.responses ∧
      (((fun v => v.advance l.ticket)^[n] s).inFlight? l.ticket).isSome = true := by
  induction n generalizing s l with
  | zero => exact ⟨rfl, by rw [Function.iterate_zero_apply, h.inFlight?_of_mem hl, Option.isSome_some]⟩
  | succ n ih =>
    obtain ⟨hlast, -⟩ | ⟨hresponses, hmem, hsteps⟩ := h.advance_own hl
    · omega
    · have hrest := ih (h.advance l.ticket) hmem (by omega)
      rwa [byteStep_ticket, hresponses] at hrest

/-- Settles O44: acceptance starts the request, which then needs all its byte steps. -/
theorem nothingIsDeliveredBeforeTheLastByteStep : Obligations.NothingIsDeliveredBeforeTheLastByteStep := by
  intro s t r rest i n h hdecode hexec hn hevents
  obtain ⟨response, ha, -⟩ := exec_next hexec
  have htables (events : List HostEvent) : s.SameTables { s with events := events } := ⟨rfl, rfl, rfl⟩
  let queue := List.replicate n (HostEvent.advance s.nextTicket) ++ rest
  obtain ⟨l, hticket, hl, hsteps, haccept⟩ := State.accept_of_byteSteps_pos (s := { s with events := queue })
    (((htables queue).answer i).trans ha) (((htables queue).byteSteps i).trans_gt (Nat.zero_lt_of_lt hn))
  have hstep : step s = .next { s with
      inProgress := s.inProgress ++ [l], nextTicket := s.nextTicket + 1, events := queue } := by
    rw [step_of_events_cons hevents, runEvent_accept_of_decode _ hdecode, haccept]
  have hgood := (h.withEvents rest).start (State.SameTables.consistent ⟨rfl, rfl, rfl⟩ hl) hticket
  obtain ⟨hresponses, hfound⟩ := hgood.iterate_advance_unfinished (l := l) (n := n) (by simp)
    (by rwa [hsteps, (htables queue).byteSteps])
  rw [hticket] at hresponses hfound
  refine ⟨_, ?_, hresponses, hfound⟩
  rw [runSteps_of_step_next hstep]
  exact runSteps_replicate_advance _ rest n
    { s with inProgress := s.inProgress ++ [l], nextTicket := s.nextTicket + 1 }

end Sys2Proof.Machine
end

section
/-! The opcode table read as a map from selectors to rows, the decoder in terms of it, and the statements of
30_encoding.md about requests settled with them: the round trip of a request record (R69, R70), the row a selector matches,
the selectors of the table (R73), and words that are no selector. -/

namespace Sys2Proof.Machine

/-! ### The opcode table -/

/-- Two rows whose matches agree under both masks are one row. -/
theorem opcodeTable_eq_of_overlap : ∀ m n : Fin opcodeTable.length,
    opcodeTable[m].value &&& opcodeTable[n].mask = opcodeTable[n].value &&& opcodeTable[m].mask → m = n := by decide

/-- Two rows that one selector matches are one row (R70): the selector's bits under both masks are in both matches. -/
theorem OpcodeRow.eq_of_selector {a b : OpcodeRow} (ha : a ∈ opcodeTable) (hb : b ∈ opcodeTable) {sel : BitVec 16}
    (hsela : sel &&& a.mask = a.value) (hselb : sel &&& b.mask = b.value) : a = b := by
  obtain ⟨m, hm, rfl⟩ := List.getElem_of_mem ha
  obtain ⟨n, hn, rfl⟩ := List.getElem_of_mem hb
  have hoverlap : opcodeTable[m].value &&& opcodeTable[n].mask = opcodeTable[n].value &&& opcodeTable[m].mask := by
    rw [← hsela, ← hselb, BitVec.and_assoc, BitVec.and_assoc, BitVec.and_comm opcodeTable[m].mask]
  have hmn := opcodeTable_eq_of_overlap ⟨m, hm⟩ ⟨n, hn⟩ hoverlap
  congr 1
  exact Fin.mk.inj hmn

/-- The match of a row is a 10-bit selector that the row matches. -/
theorem opcodeTable_value : ∀ n : Fin opcodeTable.length,
    opcodeTable[n].value &&& 0xFC00 = 0 ∧ opcodeTable[n].value &&& opcodeTable[n].mask = opcodeTable[n].value := by decide

/-! ### The decoder -/

/-- A word with a bit above the selector's ten decodes to no operation. -/
theorem decode_of_not_selector {r : Request} (h : r.sel &&& 0xFC00 ≠ 0) : decode r = .error .notASelector := if_pos h

/-- Everything the decoder can do when it answers an operation: read it off a row that the selector matches. -/
theorem decode_ok {r : Request} {i : Instr} (h : decode r = .ok i) :
    ∃ row ∈ opcodeTable, r.sel &&& row.mask = row.value ∧ i = row.read r.operands := by
  unfold decode at h
  split at h
  · cases h
  · split at h
    · next row hrow =>
      cases h
      exact ⟨row, List.mem_of_find?_eq_some hrow, by simpa [OpcodeRow.selects] using List.find?_some hrow, rfl⟩
    · split at h <;> cases h

/-- A 10-bit selector that a row matches decodes to the row's operation: no other row is found for it. -/
theorem decode_of_row {r : Request} {row : OpcodeRow} (hrow : row ∈ opcodeTable) (hsel : r.sel &&& 0xFC00 = 0)
    (hmatch : r.sel &&& row.mask = row.value) : decode r = .ok (row.read r.operands) := by
  rw [decode, if_neg (not_not_intro hsel)]
  cases hfind : opcodeTable.find? (fun row => row.selects r.sel) with
  | none => exact absurd (beq_iff_eq.mpr hmatch) (List.find?_eq_none.mp hfind row hrow)
  | some found =>
    have hfound : r.sel &&& found.mask = found.value := by simpa [OpcodeRow.selects] using List.find?_some hfind
    rw [OpcodeRow.eq_of_selector (List.mem_of_find?_eq_some hfind) hrow hfound hmatch]

/-- The match of a row, taken as a selector, decodes to the row's operation, whatever the operands. -/
theorem decode_value (n : Fin opcodeTable.length) (o : Operands) :
    decode ⟨opcodeTable[n].value, o⟩ = .ok (opcodeTable[n].read o) :=
  decode_of_row (List.getElem_mem _) (opcodeTable_value n).1 (opcodeTable_value n).2

/-- A 10-bit selector that no row matches is reserved: by its `op`, or else by its command tag (R73). -/
theorem decode_of_no_row {sel : BitVec 16} {e : DecodeError} (hsel : sel &&& 0xFC00 = 0)
    (hnone : ∀ row ∈ opcodeTable, sel &&& row.mask ≠ row.value)
    (he : (if selectorOp sel = 3 then .reservedOp else .reservedCommandTag (selectorTag sel)) = e) (o : Operands) :
    decode ⟨sel, o⟩ = .error e := by
  have hfind : opcodeTable.find? (fun row => row.selects sel) = none :=
    List.find?_eq_none.mpr fun row hrow => mt beq_iff_eq.mp (hnone row hrow)
  rw [decode, if_neg (not_not_intro hsel), hfind, ← he, apply_ite Except.error]

/-! ### The row of an instruction -/

/-- The row of the opcode table for an instruction's operation (R69). -/
def rowOf : Instr → Fin opcodeTable.length
  | .crc16 _ _ => ⟨0, by decide⟩
  | .encodeFixed _ => ⟨1, by decide⟩
  | .encodeSetYawPitchSpeed _ _ => ⟨2, by decide⟩
  | .encodeSetYawPitchAngle _ _ => ⟨3, by decide⟩
  | .encodeSetUtcTime _ => ⟨4, by decide⟩
  | .encodeGetCodecSpec _ => ⟨5, by decide⟩
  | .encodeSetCodecSpec _ _ _ _ _ => ⟨6, by decide⟩
  | .decodeAttitude _ => ⟨7, by decide⟩

/-- The encoder emits the match of the instruction's row: tag 0 where `op` is not 1 (R70). -/
theorem encode_sel (i : Instr) : (encode i).sel = opcodeTable[rowOf i].value := by
  cases i <;> simp [encode, Instr.opTag, rowOf, opcodeTable, selectorOf]

/-- The instruction's row reads its operands back out of its record. -/
theorem read_operands (i : Instr) : opcodeTable[rowOf i].read i.operands = i := by cases i <;> rfl

/-- Settles O1: the record's selector is the match of the instruction's row, and that row reads the operands back. -/
theorem decodeOfEncodeIsIdentity : Obligations.DecodeOfEncodeIsIdentity := by
  intro i
  calc decode (encode i) = decode ⟨opcodeTable[rowOf i].value, i.operands⟩ := by rw [← encode_sel]; rfl
    _ = .ok (opcodeTable[rowOf i].read i.operands) := decode_value _ _
    _ = .ok i := by rw [read_operands]

/-- Settles O2: the decoder reads the operation off a row that the selector matches, and no two rows match it. -/
theorem selectorSelectsOneRow : Obligations.SelectorSelectsOneRow := by
  intro r i hdecode
  obtain ⟨row, hrow, hmatch, hread⟩ := decode_ok hdecode
  refine ⟨row, hrow, ⟨hmatch, hread⟩, fun row' hrow' hmatch' => ?_⟩
  rw [OpcodeRow.eq_of_selector hrow' hrow hmatch' hmatch]

/-- Settles O3: the eight selectors are the matches of the rows, in their order; no row matches the other two. -/
theorem specSelectorsDecode : Obligations.SpecSelectorsDecode := fun o =>
  ⟨decode_value ⟨0, by decide⟩ o, decode_value ⟨1, by decide⟩ o, decode_value ⟨2, by decide⟩ o,
    decode_value ⟨3, by decide⟩ o, decode_value ⟨4, by decide⟩ o, decode_value ⟨5, by decide⟩ o,
    decode_value ⟨6, by decide⟩ o, decode_value ⟨7, by decide⟩ o,
    decode_of_no_row (by decide) (by decide) (by decide) o,
    decode_of_no_row (by decide) (by decide) (by decide) o⟩

/-! ### A request that does not decode -/

/-- A request that decodes to no operation is refused by name. -/
theorem runEvent_request_of_decode_error {r : Request} {e : DecodeError} (s : State) (h : decode r = .error e) :
    runEvent s (.request r) = .refused (refusalOf e) := by
  simp only [runEvent, h]

/-- So it is by the byte-serial engine. -/
theorem runEvent_accept_of_decode_error {r : Request} {e : DecodeError} (s : State) (h : decode r = .error e) :
    runEvent s (.accept r) = .refused (refusalOf e) := by
  simp only [runEvent, h]

/-- Settles O5: such a word does not decode, so neither level of the machine runs it. -/
theorem nonSelectorsAreRefused : Obligations.NonSelectorsAreRefused := by
  intro s r rest hevents hword
  have hdecode := decode_of_not_selector hword
  rcases hevents with hrequest | haccept
  · rw [step_of_events_cons hrequest, runEvent_request_of_decode_error _ hdecode]; rfl
  · rw [step_of_events_cons haccept, runEvent_accept_of_decode_error _ hdecode]; rfl

end Sys2Proof.Machine
end

section
/-! Which requests are answered, what makes a byte sequence a frame, and the statements of 30_encoding.md settled with them:
admitted requests (R73) and those a disciplined host issues (R212), WF_FRAME against BUILD_FRAME (R67, R133), the fields of
emitted frames (R61 to R66), and the host's two pseudo-operations (R75, R76). -/

namespace Sys2Proof.Machine

/-! ### Admitted requests -/

/-- A request is answered exactly where it is owed a response. -/
theorem exec_next_iff {i : Instr} {s : State} : (∃ t, exec i s = .next t) ↔ ∃ r, answer s i = .ok r :=
  ⟨fun ⟨_, h⟩ => (exec_next h).imp fun _ hr => hr.1, fun ⟨_, hr⟩ => ⟨_, exec_of_answer_ok hr⟩⟩

/-- An input of an admitted length is answered with its checksum (R100). -/
theorem answerCrc16_of_admits {s : State} {data : Bytes} (init : Word)
    (h : s.config.admitsCrcLength data.length = true) :
    answerCrc16 s data init = .ok ⟨.ok, some (.checksum (crc16 s.romCrc data init))⟩ := if_pos h

/-- A fixed command is answered with an entry of the table (R121). -/
theorem answerEncodeFixed_ok_iff {s : State} {k : Nat} {r : Response} :
    answerEncodeFixed s k = .ok r ↔ ∃ e, s.romFixed[k]? = some e ∧ r = .ofResult (.frame e) := by
  unfold answerEncodeFixed
  cases s.romFixed[k]? <;> simp [eq_comm]

/-- DECODE_ATTITUDE answers every input, MALFORMED_REPLY being an answer (R172). -/
theorem answerDecodeAttitude_ok (s : State) (data : Bytes) : ∃ r, answerDecodeAttitude s data = .ok r := by
  unfold answerDecodeAttitude
  split <;> exact ⟨_, rfl⟩

/-- Under a layout that makes a payload, the requests that are owed a response are the admitted ones. -/
theorem answer_ok_iff_wellFormed {s : State} (hlayout : CodecLayout.wf s.config.codecSetLayout = true) (i : Instr) :
    (∃ r, answer s i = .ok r) ↔ i.wellFormed s.config s.romFixed.length = true := by
  cases i with
  | crc16 data init =>
    refine ⟨fun ⟨r, hr⟩ => ?_, fun hadmits => ⟨_, answerCrc16_of_admits init hadmits⟩⟩
    by_contra hadmits
    cases hr.symm.trans (answerCrc16_of_not_admits init (Bool.eq_false_of_not_eq_true hadmits))
  | encodeFixed k => simp [answer, answerEncodeFixed_ok_iff, Instr.wellFormed, List.getElem?_eq_some_iff]
  | encodeSetYawPitchSpeed yaw pitch => exact iff_of_true ⟨_, rfl⟩ rfl
  | encodeSetYawPitchAngle yaw pitch => exact iff_of_true ⟨_, rfl⟩ rfl
  | encodeSetUtcTime timestamp => exact iff_of_true ⟨_, rfl⟩ rfl
  | encodeGetCodecSpec stream => exact iff_of_true ⟨_, rfl⟩ rfl
  | encodeSetCodecSpec stream encType width height bitrate =>
    exact iff_of_true ⟨_, answerSetCodecSpec_of_wf _ hlayout⟩ rfl
  | decodeAttitude data => exact iff_of_true (answerDecodeAttitude_ok s data) rfl

/-- Settles O25: a good state's layout makes a payload. -/
theorem admittedRequestsAreTheAnsweredOnes : Obligations.AdmittedRequestsAreTheAnsweredOnes := by
  intro s i h
  rw [exec_next_iff, answer_ok_iff_wellFormed h.layout]

/-- Where the rules' admitted commands are those of the configuration, the requests the host may issue are admitted,
except that its duties do not bound a checksum's input (R212). -/
theorem wellFormed_of_mayRequest {c : Config} {n : Nat} {r : HostRules} {h : Session} {i : Instr}
    (hadmitted : ∀ j, r.admitted j = j.wellFormed c n)
    (hcrc : ∀ data init, i = .crc16 data init → c.admitsCrcLength data.length = true)
    (hmay : h.mayRequest r i = true) : i.wellFormed c n = true := by
  cases i with
  | crc16 data init => exact hcrc data init rfl
  | encodeFixed k => exact (hadmitted _).symm.trans hmay
  | encodeSetYawPitchSpeed yaw pitch => rfl
  | encodeSetYawPitchAngle yaw pitch => rfl
  | encodeSetUtcTime timestamp => rfl
  | encodeGetCodecSpec stream => rfl
  | encodeSetCodecSpec stream encType width height bitrate => rfl
  | decodeAttitude data => rfl

/-- Settles O56: a disciplined host issues only admitted requests, and in a good state these are answered. -/
theorem disciplinedRequestsAreAnswered : Obligations.DisciplinedRequestsAreAnswered := by
  intro s r h g i hgood hadmitted hcrc hact
  obtain ⟨hmay, -⟩ := Session.act_some hact
  exact (admittedRequestsAreTheAnsweredOnes s i hgood).mp (wellFormed_of_mayRequest hadmitted hcrc hmay)

/-! ### The checksum field -/

/-- The checksum field holds bits 7 to 0, then bits 15 to 8 (R66). -/
theorem checksumBytes_eq (c : Word) : checksumBytes c = [c.setWidth 8, (c >>> 8).setWidth 8] := by
  have hlow : lowByte c = c.setWidth 8 := by simp [lowByte, BitVec.extractLsb']
  have hhigh : highByte c = (c >>> 8).setWidth 8 := by ext; simp [highByte]
  rw [checksumBytes, hlow, hhigh]

/-- The checksum clauses of WF_FRAME and check_frame (R67, R75) say that the sequence ends in the checksum of the rest. -/
theorem last_two_eq_checksum_iff (rom : RomCrc) {f : Bytes} (h : 2 ≤ f.length) :
    (f[f.length - 2]? = some (lowByte (crc16 rom (f.take (f.length - 2)) 0)) ∧
      f[f.length - 1]? = some (highByte (crc16 rom (f.take (f.length - 2)) 0))) ↔ ∃ p, f = withChecksum rom p := by
  obtain ⟨x, y, hxy⟩ := List.length_eq_two.mp (show (f.drop (f.length - 2)).length = 2 by simp; omega)
  obtain ⟨p, rfl⟩ : ∃ p, f = p ++ [x, y] := ⟨_, by rw [← hxy, List.take_append_drop]⟩
  constructor
  · intro hlast
    obtain ⟨rfl, rfl⟩ : x = lowByte (crc16 rom p 0) ∧ y = highByte (crc16 rom p 0) := by simpa using hlast
    exact ⟨p, rfl⟩
  · rintro ⟨q, hq⟩
    obtain ⟨rfl, hchecksum⟩ := List.append_inj' hq rfl
    simpa [checksumBytes] using hchecksum

/-! ### Frames -/

section BuildFrame
variable (rom : RomCrc) (cmdId : Byte) (payload : Bytes)

@[simp] theorem buildFrame_header : (buildFrame rom cmdId payload).take 3 = [0x55, 0x66, 0x01] := rfl

@[simp] theorem buildFrame_dataLen : (buildFrame rom cmdId payload)[3]? = some (BitVec.ofNat 8 payload.length) := rfl

@[simp] theorem buildFrame_reserved : ((buildFrame rom cmdId payload).drop 4).take 3 = [0x00, 0x00, 0x00] := rfl

/-- All of a frame but its last two bytes is what steps 1 to 5 of BUILD_FRAME make (R133). -/
theorem buildFrame_take : (buildFrame rom cmdId payload).take ((buildFrame rom cmdId payload).length - 2) =
    framePrefix cmdId payload := List.take_left' (by simp; omega)

/-- A frame's last two bytes are its checksum field. -/
theorem buildFrame_drop : (buildFrame rom cmdId payload).drop ((buildFrame rom cmdId payload).length - 2) =
    checksumBytes (crc16 rom (framePrefix cmdId payload) 0) := List.drop_left' (by simp; omega)

end BuildFrame

/-- What BUILD_FRAME makes of at most 255 payload bytes satisfies WF_FRAME. -/
theorem wfFrame_buildFrame (cmdId : Byte) {payload : Bytes} (h : payload.length ≤ 255) :
    wfFrame (buildFrame romCrcTable cmdId payload) = true := by
  have hchecksum := (last_two_eq_checksum_iff romCrcTable (f := buildFrame romCrcTable cmdId payload)
    (by simp; omega)).mpr ⟨_, rfl⟩
  have hlen : payload.length % 256 = payload.length := Nat.mod_eq_of_lt (by omega)
  simp only [wfFrame, Bool.and_eq_true, beq_iff_eq, decide_eq_true_eq, hchecksum, and_true]
  simp [buildFrame, withChecksum, framePrefix, hlen, Nat.add_comm 10]

/-- WF_FRAME fixes all of a frame but its CMD_ID and its payload: DATA_LEN is the payload's length. -/
theorem exists_buildFrame_of_wfFrame {f : Bytes} (h : wfFrame f = true) :
    ∃ cmdId payload, payload.length ≤ 255 ∧ f = buildFrame romCrcTable cmdId payload := by
  simp only [wfFrame, Bool.and_eq_true, beq_iff_eq, decide_eq_true_eq, and_assoc] at h
  obtain ⟨hlen, h0, h1, h2, h3, h4, h5, h6, hchecksum⟩ := h
  obtain ⟨p, rfl⟩ := (last_two_eq_checksum_iff romCrcTable (by omega)).mp hchecksum
  match p with
  | b0 :: b1 :: b2 :: n :: b4 :: b5 :: b6 :: cmdId :: payload =>
    obtain rfl : b0 = 0x55 := Option.some.inj h0
    obtain rfl : b1 = 0x66 := Option.some.inj h1
    obtain rfl : b2 = 0x01 := Option.some.inj h2
    obtain rfl : b4 = 0x00 := Option.some.inj h4
    obtain rfl : b5 = 0x00 := Option.some.inj h5
    obtain rfl : b6 = 0x00 := Option.some.inj h6
    have hn : 10 + n.toNat = payload.length + 10 := by simpa using Option.some.inj h3
    have hpayload : payload.length = n.toNat := by omega
    refine ⟨cmdId, payload, by omega, ?_⟩
    rw [buildFrame, framePrefix, hpayload, BitVec.ofNat_toNat, BitVec.setWidth_eq]
    rfl

/-- Settles O26: WF_FRAME holds of BUILD_FRAME's results, and leaves no byte of a frame open that BUILD_FRAME fixes. -/
theorem framesAreWhatBuildFrameMakes : Obligations.FramesAreWhatBuildFrameMakes := fun _ =>
  ⟨exists_buildFrame_of_wfFrame, fun ⟨cmdId, _, hlen, hf⟩ => hf ▸ wfFrame_buildFrame cmdId hlen⟩

/-! ### Emitted frames -/

/-- A layout that makes a payload makes one that BUILD_FRAME takes (R62). -/
theorem dataLen_le_of_wf {l : CodecLayout} (h : CodecLayout.wf l = true) : CodecLayout.dataLen l ≤ 255 := by
  rw [CodecLayout.wf, Bool.and_eq_true] at h
  exact of_decide_eq_true h.2

/-- The answer to ENCODE of `i` is the frame of a payload BUILD_FRAME takes, at most 8 bytes for a parameterized command
under the decided layout (D5). -/
def AnswersAFrame (s : State) (i : Instr) (r : Response) : Prop :=
  ∃ cmdId payload, r = .ofResult (.frame (buildFrame s.romCrc cmdId payload)) ∧ payload.length ≤ 255 ∧
    (i.opTag.2 ≠ 0 → s.config.codecSetLayout = CodecLayout.default → payload.length ≤ 8)

/-- A parameterized command whose payload is at most 8 bytes is answered by its frame. -/
theorem answersAFrame_of_answerFrame {s : State} {i : Instr} {r : Response} {cmdId : Byte} {payload : Bytes}
    (hr : answerFrame s cmdId payload = .ok r) (hlen : payload.length ≤ 8) : AnswersAFrame s i r :=
  ⟨cmdId, payload, (Except.ok.inj hr).symm, hlen.trans (by decide), fun _ _ => hlen⟩

/-- In a good state ENCODE answers frames: a fixed command's is an entry of ROM_FIXED (R121), any other's is built (R133). -/
theorem State.Inv.answersAFrame {s : State} (h : s.Inv) {i : Instr} (hop : i.opTag.1 = 1) {r : Response}
    (hr : answer s i = .ok r) : AnswersAFrame s i r := by
  cases i with
  | crc16 data init => exact absurd (show (0 : BitVec 2) = 1 from hop) (by decide)
  | encodeFixed k =>
    obtain ⟨e, he, rfl⟩ := answerEncodeFixed_ok_iff.mp hr
    obtain ⟨cmdId, payload, hlen, rfl⟩ := exists_buildFrame_of_wfFrame (h.romFixed_wf e (List.mem_of_getElem? he))
    exact ⟨cmdId, payload, by rw [h.romCrc], hlen, fun htag => absurd rfl htag⟩
  | encodeSetYawPitchSpeed yaw pitch => exact answersAFrame_of_answerFrame hr (by simp)
  | encodeSetYawPitchAngle yaw pitch => exact answersAFrame_of_answerFrame hr (by simp)
  | encodeSetUtcTime timestamp => exact answersAFrame_of_answerFrame hr (by simp)
  | encodeGetCodecSpec stream => exact answersAFrame_of_answerFrame hr (by simp)
  | encodeSetCodecSpec stream encType width height bitrate =>
    have hr' := Except.ok.inj ((answerSetCodecSpec_of_wf _ h.layout).symm.trans hr)
    refine ⟨_, _, hr'.symm, ?_, fun _ hdefault => ?_⟩
    · rw [setCodecPayload_length]
      exact dataLen_le_of_wf h.layout
    · rw [setCodecPayload_length, hdefault]
      decide
  | decodeAttitude data => exact absurd (show (2 : BitVec 2) = 1 from hop) (by decide)

/-- Settles O27: what is delivered is BUILD_FRAME's result, whose fields are read off it. -/
theorem emittedFramesHaveTheirFields : Obligations.EmittedFramesHaveTheirFields := by
  intro s t i h hop hexec
  obtain ⟨r, hr, rfl⟩ := exec_next hexec
  obtain ⟨cmdId, payload, rfl, hlen, hdefault⟩ := h.answersAFrame hop hr
  have hn : (BitVec.ofNat 8 payload.length).toNat = payload.length := by
    rw [BitVec.toNat_ofNat, Nat.mod_eq_of_lt (by omega)]
  refine ⟨buildFrame s.romCrc cmdId payload, BitVec.ofNat 8 payload.length, rfl, buildFrame_header ..,
    buildFrame_dataLen .., buildFrame_reserved .., ?_, ?_, ?_, ?_, ?_, fun htag hlayout => ?_⟩
  · rw [buildFrame_length, hn]
  · simp [hn]; omega
  · simp
  · rw [buildFrame_length]; omega
  · rw [buildFrame_drop, buildFrame_take, checksumBytes_eq]
  · have := hdefault htag hlayout
    rw [buildFrame_length, hn]
    omega

/-! ### The pseudo-operations -/

/-- A checksum just delivered is the last checksum. -/
@[simp] theorem State.lastChecksum_deliver (s : State) (i : Instr) (c : Word) :
    (s.deliver i ⟨.ok, some (.checksum c)⟩).lastChecksum = some c := by
  simp [lastChecksum]

/-- One crc16 request of an admitted length is answered, and the host gets the checksum back from it. -/
theorem exists_hostCrc16 {s : State} {data : Bytes} (init : Word) (h : s.config.admitsCrcLength data.length = true) :
    ∃ t, exec (.crc16 data init) s = .next t ∧ hostCrc16 data init s = some (crc16 s.romCrc data init, t) := by
  have hexec : exec (.crc16 data init) s = _ := exec_of_answer_ok (answerCrc16_of_admits init h)
  have hhost : execCrc16 data init s = _ := hexec
  refine ⟨_, hexec, ?_⟩
  rw [hostCrc16, hhost]
  simp

/-- Settles O48: the comparison check_frame makes is that of WF_FRAME's checksum clauses, under the machine's own table. -/
theorem checkFrameComparesTheChecksum : Obligations.CheckFrameComparesTheChecksum := by
  intro s f
  refine ⟨fun hshort => if_pos hshort, fun hlen hadmits => ?_⟩
  rw [← List.length_take_of_le (Nat.sub_le f.length 2)] at hadmits
  obtain ⟨t, hexec, hhost⟩ := exists_hostCrc16 0 hadmits
  refine ⟨?ok, t, hexec, ?check, ?iff⟩
  case check => rw [checkFrame, if_neg (Nat.not_lt_of_le hlen), hhost, Option.map_some]
  case iff =>
    simp only [Bool.and_eq_true, beq_iff_eq, last_two_eq_checksum_iff s.romCrc hlen, withChecksum, checksumBytes_eq]

/-- Settles O49: a frame ends in its checksum, and a good state's table is that of WF_FRAME. -/
theorem checkFrameAcceptsEveryFrame : Obligations.CheckFrameAcceptsEveryFrame := by
  intro s f h hadmits hframe
  obtain ⟨cmdId, payload, -, rfl⟩ := exists_buildFrame_of_wfFrame hframe
  obtain ⟨ok, t, -, hcheck, hok⟩ := (checkFrameComparesTheChecksum s _).2 (by simp; omega) hadmits
  have htrue : ok = true := hok.mpr ⟨framePrefix cmdId payload, by rw [h.romCrc, ← checksumBytes_eq]; rfl⟩
  exact ⟨t, htrue ▸ hcheck⟩

/-- Settles O50: append_crc appends the checksum field, as step 6 of BUILD_FRAME does. -/
theorem appendCrcCompletesAFrame : Obligations.AppendCrcCompletesAFrame := by
  intro s p hadmits
  obtain ⟨t, hexec, hhost⟩ := exists_hostCrc16 0 hadmits
  have happend : appendCrc p s = some (withChecksum s.romCrc p, t) := by
    rw [appendCrc, hhost]; rfl
  refine ⟨t, hexec, ?_, ?_⟩
  · rw [happend, withChecksum, checksumBytes_eq]
  · rintro cmdId payload rfl
    exact happend

end Sys2Proof.Machine
end

section
/-! What a crc16 request delivers, the CRC step as bit-serial division and what follows from its linearity, and the
statements of 40_checksum.md settled with them: CRC16 (R100 to R102), chaining (R105), linearity (R106) and the residue
(R107), purity (R103), and the byte steps each request takes (R109, R238). -/

namespace Sys2Proof.Machine

/-! ### A crc16 request -/

/-- An input of an admitted length completes with its checksum (R100). -/
theorem exec_crc16_of_admits {s : State} {data : Bytes} (init : Word)
    (h : s.config.admitsCrcLength data.length = true) :
    exec (.crc16 data init) s =
      .next (s.deliver (.crc16 data init) ⟨.ok, some (.checksum (crc16 s.romCrc data init))⟩) :=
  exec_of_answer_ok (answerCrc16_of_admits init h)

/-- A crc16 request of an admitted length lets the host read its checksum back, and keeps the tables. -/
theorem exists_exec_crc16 {s : State} {data : Bytes} (init : Word)
    (h : s.config.admitsCrcLength data.length = true) :
    ∃ t, exec (.crc16 data init) s = .next t ∧ t.lastChecksum = some (crc16 s.romCrc data init) ∧ s.SameTables t :=
  ⟨_, exec_crc16_of_admits init h, State.lastChecksum_deliver .., .deliver ..⟩

/-- No realisation refuses the empty input (D9). -/
theorem admitsCrcLength_zero (c : Config) : c.admitsCrcLength 0 = true := by
  unfold Config.admitsCrcLength
  split
  · rfl
  · exact decide_eq_true (Nat.zero_le _)

/-- A length below an admitted one is admitted (D9). -/
theorem admitsCrcLength_of_le {c : Config} {m n : Nat} (hle : m ≤ n) (h : c.admitsCrcLength n = true) :
    c.admitsCrcLength m = true := by
  cases hbound : c.maxCrcLen with
  | none => simp only [Config.admitsCrcLength, hbound]
  | some k =>
    rw [admitsCrcLength_of_bound hbound, decide_eq_true_eq] at h ⊢
    exact hle.trans h

/-- The step's table access as a look-up in the list of R21 (R101). -/
theorem crcStep_eq_getD (rom : RomCrc) : crcStep rom = fun (acc : Word) (b : Byte) =>
    (acc <<< 8) ^^^ rom.toList.getD (b ^^^ acc.extractLsb' 8 8).toNat 0 := by
  funext acc b
  rw [List.getD_eq_getElem _ _ (by simpa using (b ^^^ acc.extractLsb' 8 8).isLt), Vector.getElem_toList]
  rfl

/-- Settles O9: the request completes with the fold of CRC_STEP, whose look-up is the one the statement writes out. -/
theorem crc16FoldsTheTable : Obligations.Crc16FoldsTheTable := fun s _ init hadmits =>
  ⟨exec_crc16_of_admits init hadmits, by rw [← crcStep_eq_getD]; rfl⟩

/-! ### CRC_STEP as bit-serial division -/

/-- The bit step is linear over GF(2). -/
theorem crcBitStep_xor (x y : Word) : crcBitStep (x ^^^ y) = crcBitStep x ^^^ crcBitStep y := by
  have hstep (c : Word) : crcBitStep c = (c <<< 1) ^^^ (if c.msb then 0x1021 else 0) := by
    unfold crcBitStep
    split <;> simp
  have hpoly : (if (x ^^^ y).msb then 0x1021 else 0 : Word) =
      (if x.msb then 0x1021 else 0) ^^^ (if y.msb then 0x1021 else 0) := by
    rw [BitVec.msb_xor]
    cases x.msb <;> cases y.msb <;> rfl
  rw [hstep, hstep, hstep, hpoly, BitVec.shiftLeft_xor_distrib]
  ac_rfl

/-- Any number of bit steps is linear over GF(2). -/
theorem crcBitSteps_xor (n : Nat) (x y : Word) : crcBitSteps n (x ^^^ y) = crcBitSteps n x ^^^ crcBitSteps n y := by
  induction n generalizing x y with
  | zero => rfl
  | succ n ih => rw [crcBitSteps, crcBitStep_xor, ih]; rfl

/-- Where bit 15 is clear, a bit step is a shift. -/
theorem crcBitStep_of_lt {c : Word} (h : c.toNat < 2 ^ 15) : crcBitStep c = c <<< 1 :=
  if_neg (by simpa [BitVec.msb_eq_decide] using h)

/-- As long as nothing reaches bit 15 too early, bit steps are one shift. -/
theorem crcBitSteps_of_lt (n : Nat) {c : Word} (h : c.toNat * 2 ^ n < 2 ^ 16) : crcBitSteps n c = c <<< n := by
  induction n generalizing c with
  | zero => exact (BitVec.shiftLeft_zero c).symm
  | succ n ih =>
    have hdouble : c.toNat * 2 * 2 ^ n < 2 ^ 16 := by rwa [Nat.mul_assoc, ← Nat.pow_succ']
    have hc : c.toNat * 2 < 2 ^ 16 := (Nat.le_mul_of_pos_right _ (Nat.two_pow_pos n)).trans_lt hdouble
    have hshift : (c <<< 1).toNat = c.toNat * 2 := by
      rw [BitVec.toNat_shiftLeft, Nat.shiftLeft_eq, Nat.pow_one, Nat.mod_eq_of_lt hc]
    rw [crcBitSteps, crcBitStep_of_lt (by omega), ih (by rwa [hshift]), ← BitVec.shiftLeft_add, Nat.add_comm]

/-- `v[7:0]` as a truncation. -/
theorem lowByte_eq (c : Word) : lowByte c = c.setWidth 8 := (List.cons.inj (checksumBytes_eq c)).1

/-- `v[15:8]` as a shift and a truncation. -/
theorem highByte_eq (c : Word) : highByte c = (c >>> 8).setWidth 8 :=
  (List.cons.inj (List.cons.inj (checksumBytes_eq c)).2).1

/-- A u16 is its low byte and its high byte. -/
theorem lowByte_xor_highByte (w : Word) : (lowByte w).setWidth 16 ^^^ ((highByte w).setWidth 16 <<< 8) = w := by
  rw [lowByte_eq, highByte_eq]
  ext i hi
  by_cases h : i < 8
  · simp [h, BitVec.getLsbD_eq_getElem hi]
  · have hle : 8 ≤ i := Nat.le_of_not_lt h
    simp [h, hi, Nat.add_sub_cancel' hle, Nat.sub_lt_iff_lt_add hle]

/-- Both bytes of a u16 are shifted out by two shifts of a byte. -/
theorem shiftLeft_eight_eight (c : Word) : c <<< 8 <<< 8 = 0 := by
  rw [← BitVec.shiftLeft_add, BitVec.shiftLeft_eq_zero (by decide)]
  rfl

/-- R21's table at a byte: eight bit steps of the byte in the high half. -/
theorem romCrcTable_getElem_toNat (b : Byte) :
    romCrcTable[b.toNat]'b.isLt = crcBitSteps 8 (b.setWidth 16 <<< 8) :=
  (romCrcTable_getElem ⟨b.toNat, b.isLt⟩).trans (by rw [BitVec.ofNat_toNat])

/-- Under R21's table, CRC_STEP is eight bit steps (R102): the accumulator's low byte is only shifted by them, and the table
holds what they make of its high byte and the input byte. -/
theorem crcStep_romCrcTable (acc : Word) (b : Byte) : crcStep romCrcTable acc b = crcStepBits acc b := by
  have hlow : crcBitSteps 8 ((lowByte acc).setWidth 16) = acc <<< 8 := by
    rw [crcBitSteps_of_lt 8 (by rw [BitVec.toNat_setWidth_of_le (by decide)]; omega)]
    conv_rhs => rw [← lowByte_xor_highByte acc]
    rw [BitVec.shiftLeft_xor_distrib, shiftLeft_eight_eight]
    exact BitVec.xor_zero.symm
  calc crcStep romCrcTable acc b
      = crcBitSteps 8 ((lowByte acc).setWidth 16) ^^^ crcBitSteps 8 ((b ^^^ highByte acc).setWidth 16 <<< 8) := by
        rw [crcStep, romCrcTable_getElem_toNat, hlow]
    _ = crcBitSteps 8 (((lowByte acc).setWidth 16 ^^^ ((highByte acc).setWidth 16 <<< 8)) ^^^ (b.setWidth 16 <<< 8)) := by
        rw [← crcBitSteps_xor, BitVec.setWidth_xor, BitVec.shiftLeft_xor_distrib]
        ac_rfl
    _ = crcStepBits acc b := by rw [lowByte_xor_highByte]; rfl

/-- Settles O10: the fold's step is eight bit steps of the accumulator and the byte in its high half. -/
theorem crc16IsBitSerialDivision : Obligations.Crc16IsBitSerialDivision := by
  intro s data init hrom hadmits
  have hfold : crc16 s.romCrc data init = data.foldl crcStepBits init := by
    rw [hrom, crc16, funext₂ crcStep_romCrcTable]
  have hbits : crcStepBits = fun (acc : Word) (b : Byte) => crcBitStep^[8] (acc ^^^ ((b.setWidth 16 : Word) <<< 8)) :=
    funext₂ fun _ _ => crcBitSteps_eq_iterate 8 _
  rw [exec_crc16_of_admits init hadmits, hfold, hbits, crcBitStep_eq]

/-! ### Corner cases, chaining, linearity, residue -/

/-- Folding the accumulator's own high byte shifts it out, because entry 0 of R21's table is 0. -/
theorem crcStep_highByte (c : Word) : crcStep romCrcTable c (highByte c) = c <<< 8 := by
  have hentry : romCrcTable[0] = 0 := rfl
  simp [crcStep, hentry]

/-- Zero bytes leave the accumulator 0 (R100). -/
theorem crc16_replicate_zero (n : Nat) : crc16 romCrcTable (List.replicate n 0) 0 = 0 := by
  induction n with
  | zero => rfl
  | succ n ih =>
    have hzero : crcStep romCrcTable 0 0 = 0 := crcStep_highByte 0
    rw [List.replicate_succ, crc16_cons, hzero, ih]

/-- Settles O11: the empty fold, the fold of zero bytes, and one vector. -/
theorem crc16CornerCases : Obligations.Crc16CornerCases := by
  refine ⟨fun s init => exec_crc16_of_admits init (admitsCrcLength_zero _), fun s n hrom hadmits => ?_,
    by decide +kernel⟩
  rw [exec_crc16_of_admits 0 (by rwa [List.length_replicate]), hrom, crc16_replicate_zero]

/-- Settles O12: both pieces are admitted with the whole, and the fold over the whole goes on from the first piece's. -/
theorem crc16Chains : Obligations.Crc16Chains := by
  refine ⟨fun s a b init hadmits => ?_, by decide +kernel, by decide +kernel⟩
  rw [List.length_append] at hadmits
  obtain ⟨t, ht, hc, htables⟩ := exists_exec_crc16 init (admitsCrcLength_of_le (Nat.le_add_right _ _) hadmits)
  obtain ⟨u, hu, hd, -⟩ := exists_exec_crc16 (s := t) (crc16 s.romCrc a init)
    (by rw [htables.config]; exact admitsCrcLength_of_le (Nat.le_add_left _ _) hadmits)
  obtain ⟨v, hv, he, -⟩ := exists_exec_crc16 (data := a ++ b) init (by rwa [List.length_append])
  rw [htables.romCrc, ← crc16_append] at hd
  exact ⟨_, _, t, u, v, ht, hc, hu, hd, hv, he⟩

/-- CRC_STEP is linear in the accumulator and the byte together. -/
theorem crcStep_xor (x y : Word) (b c : Byte) :
    crcStep romCrcTable (x ^^^ y) (b ^^^ c) = crcStep romCrcTable x b ^^^ crcStep romCrcTable y c := by
  simp only [crcStep_romCrcTable, crcStepBits, ← crcBitSteps_xor, BitVec.setWidth_xor, BitVec.shiftLeft_xor_distrib]
  ac_rfl

/-- CRC16 is linear in data and `init` together, over sequences of equal length (R106). -/
theorem crc16_zipWith_xor {a b : Bytes} (h : a.length = b.length) (x y : Word) :
    crc16 romCrcTable (List.zipWith (· ^^^ ·) a b) (x ^^^ y) = crc16 romCrcTable a x ^^^ crc16 romCrcTable b y := by
  induction a generalizing b x y with
  | nil =>
    obtain rfl := List.length_eq_zero_iff.mp h.symm
    rfl
  | cons p a ih =>
    match b with
    | q :: b => rw [List.zipWith_cons_cons, crc16_cons, crcStep_xor, ih (Nat.succ.inj h)]; rfl

/-- Settles O13: linearity of the checksum, with both `init`s 0. -/
theorem crc16IsLinear : Obligations.Crc16IsLinear := by
  refine ⟨fun s a b hrom hlen hadmits => ?_, by decide +kernel, by decide +kernel, by decide +kernel⟩
  have hxor := crc16_zipWith_xor hlen 0 0
  obtain ⟨t, ht, hc, -⟩ := exists_exec_crc16 0 hadmits
  obtain ⟨u, hu, hd, -⟩ := exists_exec_crc16 (data := b) 0 (hlen ▸ hadmits)
  obtain ⟨v, hv, he, -⟩ := exists_exec_crc16 (data := List.zipWith (· ^^^ ·) a b) 0
    (by rwa [List.length_zipWith, ← hlen, Nat.min_self])
  refine ⟨_, _, t, u, v, ht, hc, hu, hd, hv, he.trans ?_⟩
  rw [hrom]
  exact congrArg some hxor

/-- The accumulator's own two bytes, high byte first, shift it out (R107). -/
theorem crc16_own_bytes (c : Word) : crc16 romCrcTable [highByte c, lowByte c] c = 0 := by
  have hlow : lowByte c = highByte (c <<< 8) := by
    rw [lowByte_eq, highByte_eq]
    ext i hi
    have hi16 : i < 16 := hi.trans (by decide)
    simp [show 8 + i < 16 by omega, BitVec.getLsbD_eq_getElem hi16]
  rw [crc16_cons, crcStep_highByte, hlow, crc16_cons, crcStep_highByte, crc16_nil, shiftLeft_eight_eight]

/-- Settles O14: after the sequence the accumulator is its checksum, which its own two bytes shift out. -/
theorem crc16Residue : Obligations.Crc16Residue := by
  refine ⟨fun s m hrom hadmits => ?_, by decide +kernel, by decide +kernel⟩
  have hzero : crc16 s.romCrc (m ++ [highByte (crc16 s.romCrc m 0), lowByte (crc16 s.romCrc m 0)]) 0 = 0 := by
    rw [crc16_append, hrom, crc16_own_bytes]
  rw [lowByte_eq, highByte_eq] at hzero
  obtain ⟨t, ht, hc, -⟩ := exists_exec_crc16 0 (admitsCrcLength_of_le (Nat.le_add_right _ _) hadmits)
  refine ⟨_, t, _, ht, hc, exec_crc16_of_admits 0 (by rwa [List.length_append]), ?_⟩
  rw [State.lastChecksum_deliver, hzero]

/-! ### What a response depends on -/

/-- Settles O34: the answer is a function of the request and the tables, and delivering it adds one response. -/
theorem responseDependsOnlyOnRequestAndTables : Obligations.ResponseDependsOnlyOnRequestAndTables := by
  intro s u t i hconfig hcrc hfixed hexec
  obtain ⟨r, hr, rfl⟩ := exec_next hexec
  have htables : s.SameTables u := ⟨hcrc.symm, hfixed.symm, hconfig.symm⟩
  exact ⟨r, _, exec_of_answer_ok ((htables.answer i).trans hr), rfl, rfl⟩

/-! ### How many byte steps a request takes -/

/-- What a request delivers is what it is owed. -/
theorem answer_of_exec_deliver {s : State} {i : Instr} {r : Response} (h : exec i s = .next (s.deliver i r)) :
    answer s i = .ok r := by
  obtain ⟨r', hr', heq⟩ := exec_next h
  obtain rfl : r = r' := by simpa using congrArg State.responses heq
  exact hr'

/-- A request answered by a frame takes one byte step for each of its bytes (R144). -/
theorem byteSteps_of_answer_frame {s : State} {i : Instr} {f : Bytes}
    (h : answer s i = .ok (.ofResult (.frame f))) : byteSteps s i = f.length := by
  cases i with
  | crc16 data init =>
    simp only [answer, answerCrc16] at h
    split at h <;> cases h
  | encodeFixed k =>
    obtain ⟨e, he, hf⟩ := answerEncodeFixed_ok_iff.mp h
    cases hf
    simp only [byteSteps, he]
  | encodeSetYawPitchSpeed yaw pitch => cases h; simp [byteSteps]
  | encodeSetYawPitchAngle yaw pitch => cases h; simp [byteSteps]
  | encodeSetUtcTime timestamp => cases h; simp [byteSteps]
  | encodeGetCodecSpec stream => cases h; simp [byteSteps]
  | encodeSetCodecSpec stream encType width height bitrate =>
    simp only [answer, answerSetCodecSpec] at h
    split at h <;> cases h
    simp [byteSteps]
  | decodeAttitude data =>
    simp only [answer, answerDecodeAttitude] at h
    split at h <;> cases h

/-- Twelve bytes hold an Attitude: each of its six fields can be read (R172). -/
theorem attitudeIn_isSome {data : Bytes} (h : 12 ≤ data.length) : ∃ a, attitudeIn data = some a := by
  choose field hfield using fun j : Fin 6 => attitudeField_isSome (data := data) (j := j) (by omega)
  have hread : (List.range (List.ofFn field).length).map (attitudeField data) = (List.ofFn field).map some := by
    refine List.ext_getElem (by simp) fun j hj _ => ?_
    rw [List.getElem_map, List.getElem_range, List.getElem_map, List.getElem_ofFn]
    exact hfield ⟨j, by simpa using hj⟩
  rw [attitudeIn_of_fields List.length_ofFn hread]
  exact Option.isSome_iff_exists.mp ((attitudeOf_isSome_iff _).mpr List.length_ofFn)

/-- DECODE_ATTITUDE answers an input of status OK with an Attitude (R172). -/
theorem answerDecodeAttitude_of_ok {s : State} {data : Bytes}
    (h : attitudeStatus s.config.attLongInput data.length = .ok) :
    ∃ a, answerDecodeAttitude s data = .ok (.ofResult (.attitude a)) := by
  obtain ⟨a, ha⟩ := attitudeIn_isSome (twelve_le_of_attitudeStatus_ok h)
  exact ⟨a, by simp only [answerDecodeAttitude, h, ha]⟩

/-- DECODE_ATTITUDE answers an input of status MALFORMED_REPLY with no Attitude (R172). -/
theorem answerDecodeAttitude_of_malformed {s : State} {data : Bytes}
    (h : attitudeStatus s.config.attLongInput data.length = .malformedReply) :
    answerDecodeAttitude s data = .ok raiseMalformedReply := by
  simp only [answerDecodeAttitude, h]

/-- DECODE_ATTITUDE takes six byte steps where it answers OK, none where it fails (R176). -/
theorem byteSteps_of_answer_attitude {s : State} {data : Bytes} {r : Response}
    (h : answer s (.decodeAttitude data) = .ok r) :
    byteSteps s (.decodeAttitude data) = if r.status = .ok then 6 else 0 := by
  cases hstatus : attitudeStatus s.config.attLongInput data.length with
  | ok =>
    obtain ⟨a, ha⟩ := answerDecodeAttitude_of_ok hstatus
    cases ha.symm.trans h
    simp only [byteSteps, hstatus]
    rfl
  | malformedReply =>
    cases (answerDecodeAttitude_of_malformed hstatus).symm.trans h
    simp only [byteSteps, hstatus]
    rfl

/-- Settles O45: a frame answered in a good state is BUILD_FRAME's result, whose byte 3 is the payload's length. -/
theorem byteStepCounts : Obligations.ByteStepCounts := by
  intro s h
  refine ⟨fun _ _ => rfl, fun i f hop hexec => ?_,
    fun data a hexec => byteSteps_of_answer_attitude (answer_of_exec_deliver hexec),
    fun data hexec => byteSteps_of_answer_attitude (answer_of_exec_deliver hexec)⟩
  have ha := answer_of_exec_deliver hexec
  have hsteps := byteSteps_of_answer_frame ha
  obtain ⟨cmdId, payload, hf, hlen, -⟩ := h.answersAFrame hop ha
  cases hf
  refine ⟨hsteps, _, buildFrame_dataLen .., ?_⟩
  rw [hsteps, buildFrame_length, BitVec.toNat_ofNat, Nat.mod_eq_of_lt (by omega)]

end Sys2Proof.Machine
end

section
/-! The answer to a fixed command on either side of N_FIXED, and the statement of 41_fixed_commands.md settled with it: the
stored entry below N_FIXED (R121), the refusal from N_FIXED on (R123). -/

namespace Sys2Proof.Machine

/-- An ordinal below N_FIXED is answered with the entry stored under it (R121). -/
theorem answerEncodeFixed_of_lt {s : State} {k : Nat} (h : k < s.romFixed.length) :
    answerEncodeFixed s k = .ok ⟨.ok, some (.frame s.romFixed[k])⟩ :=
  answerEncodeFixed_ok_iff.mpr ⟨_, List.getElem?_eq_getElem h, rfl⟩

/-- An ordinal from N_FIXED on is answered by the refusal (R123). -/
theorem answerEncodeFixed_of_le {s : State} {k : Nat} (h : s.romFixed.length ≤ k) :
    answerEncodeFixed s k = .error .fixedOrdinalOutOfRange := by
  simp only [answerEncodeFixed, List.getElem?_eq_none h]

/-- Settles O16: a fixed command is answered by the look-up in ROM_FIXED, which finds an entry exactly below N_FIXED. -/
theorem fixedReturnsTheStoredEntry : Obligations.FixedReturnsTheStoredEntry := fun _ _ =>
  ⟨fun h => exec_of_answer_ok (answerEncodeFixed_of_lt h), fun h => exec_of_answer_error (answerEncodeFixed_of_le h)⟩

end Sys2Proof.Machine
end

section
/-! The clamp and its laws, the bytes of a serialized argument, and the statements of 42_param_commands.md settled with them:
the clamp (R130, R143), big-endian serialization (R132), the frames of the five parameterized commands (R134 to R138), and a
frame for every admitted command (R141). -/

namespace Sys2Proof.Machine

/-! ### The clamp -/

section Clamp
variable {lo hi v : Int}

theorem le_clamp (h : lo ≤ hi) (v : Int) : lo ≤ clamp v lo hi := le_min (le_max_right v lo) h

theorem clamp_le (v lo hi : Int) : clamp v lo hi ≤ hi := min_le_right _ _

theorem clamp_of_lt (h : lo ≤ hi) (hv : v < lo) : clamp v lo hi = lo := by
  rw [clamp, max_eq_right hv.le, min_eq_left h]

theorem clamp_of_gt (hv : hi < v) : clamp v lo hi = hi := min_eq_right (hv.le.trans (le_max_left v lo))

theorem clamp_of_mem (hlo : lo ≤ v) (hhi : v ≤ hi) : clamp v lo hi = v := by
  rw [clamp, max_eq_left hlo, min_eq_left hhi]

theorem clamp_clamp (h : lo ≤ hi) (v : Int) : clamp (clamp v lo hi) lo hi = clamp v lo hi :=
  clamp_of_mem (le_clamp h v) (clamp_le v lo hi)

theorem clamp_mono {v' : Int} (hv : v ≤ v') (lo hi : Int) : clamp v lo hi ≤ clamp v' lo hi :=
  min_le_min_right hi (max_le_max_right lo hv)

/-- The clamp by cases: below the range, above it, within it (R143). -/
theorem clamp_eq_ite (h : lo ≤ hi) (v : Int) : clamp v lo hi = if v < lo then lo else if hi < v then hi else v := by
  split_ifs with hlow hhigh
  · exact clamp_of_lt h hlow
  · exact clamp_of_gt hhigh
  · exact clamp_of_mem (not_lt.mp hlow) (not_lt.mp hhigh)

end Clamp

/-- Settles O28: the laws one by one, and the rule's boundary values evaluated. -/
theorem clampLaws : Obligations.ClampLaws := by
  refine ⟨fun lo hi v v' h => ?_, by decide⟩
  exact ⟨rfl, le_clamp h v, clamp_le v lo hi, clamp_clamp h v, fun hv => clamp_mono hv lo hi, clamp_of_lt h,
    clamp_of_gt, clamp_of_mem⟩

/-! ### The bytes of an integer -/

/-- The byte of an integer is the integer's two's-complement byte (R10). -/
theorem byteOf_eq_ofInt (v : Int) : byteOf v = BitVec.ofInt 8 v := by
  refine BitVec.eq_of_toNat_eq ?_
  rw [byteOf, BitVec.toNat_ofNat, BitVec.toNat_ofInt]
  exact Nat.mod_eq_of_lt (by omega)

/-- Reducing modulo `2^(8n)` leaves byte `k` of the lower `n` as it is: what is subtracted is a multiple of `2^(8k+8)`. -/
theorem ofInt_emod_ediv {k n : Nat} (h : k < n) (v : Int) :
    BitVec.ofInt 8 (v % 2 ^ (8 * n) / 2 ^ (8 * k)) = BitVec.ofInt 8 (v / 2 ^ (8 * k)) := by
  obtain ⟨m, rfl⟩ := Nat.exists_eq_add_of_lt h
  have hpow : (2 : Int) ^ (8 * (k + m + 1)) = 2 ^ (8 * k) * (256 * 2 ^ (8 * m)) := by ring
  have hdiv : v % 2 ^ (8 * (k + m + 1)) / 2 ^ (8 * k) =
      v / 2 ^ (8 * k) - 256 * (2 ^ (8 * m) * (v / 2 ^ (8 * (k + m + 1)))) := by
    rw [Int.emod_def, ← Int.sub_mul_ediv_left _ _ (by positivity : (2 : Int) ^ (8 * k) ≠ 0)]
    congr 2
    rw [hpow]
    ring
  rw [hdiv]
  refine BitVec.eq_of_toNat_eq ?_
  rw [BitVec.toNat_ofInt, BitVec.toNat_ofInt]
  congr 1
  exact Int.sub_mul_emod_self_left _ _ _

/-- Byte `j` of a serialization is byte `n - 1 - j` of the integer (R132). -/
theorem serBe_eq_map_ofInt (v : Int) (n : Nat) :
    serBe v n = (List.range n).map fun j => BitVec.ofInt 8 (v / 2 ^ (8 * (n - 1 - j))) := by
  refine List.map_congr_left fun j hj => ?_
  have hj := List.mem_range.mp hj
  rw [← ofInt_emod_ediv (show n - 1 - j < n by omega), ← BitVec.ofInt_natCast]
  congr 1
  have hnonneg : 0 ≤ v % 2 ^ (8 * n) := Int.emod_nonneg _ (by positivity)
  push_cast [Nat.shiftRight_eq_div_pow]
  rw [Int.toNat_of_nonneg hnonneg]

@[simp] theorem serBe_zero (v : Int) : serBe v 0 = [] := rfl

/-- A serialization is the integer's highest byte, then the serialization in one byte less. -/
theorem serBe_succ (v : Int) (n : Nat) : serBe v (n + 1) = BitVec.ofInt 8 (v / 2 ^ (8 * n)) :: serBe v n := by
  simp only [serBe_eq_map_ofInt, List.range_succ_eq_map, List.map_cons, List.map_map]
  refine congrArg _ (List.map_congr_left fun j _ => ?_)
  rw [Function.comp_apply, show n + 1 - 1 - j.succ = n - 1 - j by omega]

/-- The remainder of a product of divisors: the lower digit, and the higher one times its weight. -/
theorem emod_mul_eq (v : Int) {a : Int} (ha : 0 ≤ a) (b : Int) : v % (a * b) = v % a + a * (v / a % b) := by
  rw [Int.emod_def, Int.emod_def, Int.emod_def (v / a), Int.ediv_ediv_of_nonneg ha]
  ring

/-- Reading a serialization most significant byte first puts its value below what was read before. -/
theorem foldl_serBe (v : Int) (n acc : Nat) :
    (((serBe v n).foldl (fun acc b => 256 * acc + b.toNat) acc : Nat) : Int) = acc * 2 ^ (8 * n) + v % 2 ^ (8 * n) := by
  induction n generalizing acc with
  | zero => simp
  | succ n ih =>
    have hbyte : ((BitVec.ofInt 8 (v / 2 ^ (8 * n))).toNat : Int) = v / 2 ^ (8 * n) % 256 := by
      rw [BitVec.toNat_ofInt]
      exact Int.toNat_of_nonneg (Int.emod_nonneg _ (by decide))
    have hpow : (2 : Int) ^ (8 * (n + 1)) = 2 ^ (8 * n) * 256 := by ring
    rw [serBe_succ, List.foldl_cons, ih, hpow, emod_mul_eq v (by positivity)]
    push_cast [hbyte]
    ring

/-- Settles O29: the reading, begun with nothing read before. -/
theorem serBeIsBigEndian : Obligations.SerBeIsBigEndian := fun v n =>
  ⟨serBe_length v n, by rw [foldl_serBe]; simp⟩

/-- The integer's two lowest bytes, the higher first. -/
theorem serBe_two (v : Int) : serBe v 2 = [BitVec.ofInt 8 (v / 256), BitVec.ofInt 8 v] := by
  simp [serBe_succ]

/-- The integer's eight lowest bytes, the highest first. -/
theorem serBe_eight (v : Int) : serBe v 8 =
    [BitVec.ofInt 8 (v / 2 ^ 56), BitVec.ofInt 8 (v / 2 ^ 48), BitVec.ofInt 8 (v / 2 ^ 40), BitVec.ofInt 8 (v / 2 ^ 32),
      BitVec.ofInt 8 (v / 2 ^ 24), BitVec.ofInt 8 (v / 2 ^ 16), BitVec.ofInt 8 (v / 2 ^ 8), BitVec.ofInt 8 v] := by
  simp [serBe_succ]

/-! ### The frames of the parameterized commands -/

/-- A parameterized command is answered by its bytes before the checksum, then the checksum, low byte first (R133). -/
theorem exec_of_answerFrame {s : State} {i : Instr} {cmdId : Byte} {payload p : Bytes}
    (ha : answer s i = answerFrame s cmdId payload) (hp : framePrefix cmdId payload = p) :
    exec i s = .next (s.deliver i ⟨.ok, some (.frame
      (p ++ [(crc16 s.romCrc p 0).setWidth 8, (crc16 s.romCrc p 0 >>> 8).setWidth 8]))⟩) := by
  subst hp
  rw [exec_of_answer_ok ha, ← checksumBytes_eq]
  rfl

/-- Settles O18: each rate is one byte of its clamped value. -/
theorem setYawPitchSpeedFrame : Obligations.SetYawPitchSpeedFrame := by
  intro s yaw pitch
  refine exec_of_answerFrame (cmdId := cmdIdSetYawPitchSpeed) (payload := speedPayload yaw pitch) rfl ?_
  simp only [speedPayload, ser1, byteOf_eq_ofInt, clamp_eq_ite (show (-100 : Int) ≤ 100 by decide)]
  rfl

/-- Settles O19: each angle is two bytes of its clamped value. -/
theorem setYawPitchAngleFrame : Obligations.SetYawPitchAngleFrame := by
  intro s yaw pitch
  refine exec_of_answerFrame (cmdId := cmdIdSetYawPitchAngle) (payload := anglePayload yaw pitch) rfl ?_
  simp only [anglePayload, serBe_two, clamp_eq_ite (show (-1350 : Int) ≤ 1350 by decide),
    clamp_eq_ite (show (-900 : Int) ≤ 250 by decide)]
  rfl

/-- Settles O20: the saturated timestamp, byte by byte. -/
theorem setUtcTimeFrame : Obligations.SetUtcTimeFrame := by
  intro s timestamp
  refine exec_of_answerFrame (cmdId := s.config.cmdIdSetUtcTime) (payload := utcPayload timestamp) rfl ?_
  simp only [utcPayload, serBe_eight, clamp_eq_ite (show (0 : Int) ≤ 2 ^ 64 - 1 by decide)]
  rfl

/-- A stream clamped to [0, 2] takes one of three values (R137, R138). -/
theorem clamp_stream (v : Int) : clamp v 0 2 = if v ≤ 0 then 0 else if v = 1 then 1 else 2 := by
  rw [clamp_eq_ite (by decide)]
  split_ifs <;> omega

/-- An encoder type clamped to [1, 2] takes one of two values (R138). -/
theorem clamp_encType (v : Int) : clamp v 1 2 = if v ≤ 1 then 1 else 2 := by
  rw [clamp_eq_ite (by decide)]
  split_ifs <;> omega

/-- Settles O21: the byte of the clamped stream. -/
theorem getCodecSpecFrame : Obligations.GetCodecSpecFrame := by
  intro s stream
  refine exec_of_answerFrame (cmdId := s.config.cmdIdGetCodecSpec) (payload := getCodecPayload stream) rfl ?_
  simp only [getCodecPayload, ser1, byteOf_eq_ofInt, clamp_stream, apply_ite (BitVec.ofInt 8)]
  rfl

/-- The payload of Set codec spec under the decided layout (D5): two one-byte fields, then three of 16 bits. -/
theorem setCodecPayload_default (a : CodecArgs) :
    setCodecPayload CodecLayout.default a =
      ser1 (clamp a.stream 0 2) ++ ser1 (clamp a.encType 1 2) ++ serBe (clamp a.width 0 0xFFFF) 2 ++
        serBe (clamp a.height 0 0xFFFF) 2 ++ serBe (clamp a.bitrate 0 0xFFFF) 2 := rfl

/-- Settles O22: the decided layout makes a payload, whose fields are the clamped arguments. -/
theorem setCodecSpecFrame : Obligations.SetCodecSpecFrame := by
  intro s stream encType width height bitrate hlayout
  have ha : answer s (.encodeSetCodecSpec stream encType width height bitrate) =
      answerFrame s s.config.cmdIdSetCodecSpec
        (setCodecPayload CodecLayout.default ⟨stream, encType, width, height, bitrate⟩) :=
    hlayout ▸ answerSetCodecSpec_of_wf _ (by rw [hlayout]; decide)
  refine exec_of_answerFrame ha ?_
  simp only [setCodecPayload_default, ser1, serBe_two, byteOf_eq_ofInt, clamp_stream, clamp_encType,
    clamp_eq_ite (show (0 : Int) ≤ 0xFFFF by decide), apply_ite (BitVec.ofInt 8)]
  rfl

/-! ### A frame for every admitted command -/

/-- Settles O24: an admitted command is owed a response, which is BUILD_FRAME's result under the table of WF_FRAME. -/
theorem everyAdmittedCommandGetsAFrame : Obligations.EveryAdmittedCommandGetsAFrame := by
  intro s i h hop hadmitted
  obtain ⟨r, hr⟩ := (answer_ok_iff_wellFormed h.layout i).mpr hadmitted
  obtain ⟨cmdId, payload, rfl, hlen, -⟩ := h.answersAFrame hop hr
  exact ⟨_, exec_of_answer_ok hr, by rw [h.romCrc]; exact wfFrame_buildFrame cmdId hlen⟩

end Sys2Proof.Machine
end

section
/-! The integer of an Attitude field, the Attitude of a payload, and the statements of 43_telemetry.md settled with them: le_s16
(R171), DECODE_ATTITUDE by the payload's length (R172, R173), and the replies a disciplined host decodes (R170, R212). -/

namespace Sys2Proof.Machine

/-! ### Little-endian fields -/

/-- `le_s16` puts its second byte above its first (R171). -/
theorem leS16_eq_append (b0 b1 : Byte) : leS16 b0 b1 = b1 ++ b0 := by
  rw [leS16, BitVec.append_def, BitVec.or_comm]
  simp [BitVec.shiftLeftZeroExtend_eq]

theorem toNat_leS16 (b0 b1 : Byte) : (leS16 b0 b1).toNat = b0.toNat + 256 * b1.toNat := by
  rw [leS16_eq_append, BitVec.toNat_append, ← Nat.shiftLeft_add_eq_or_of_lt b0.isLt, Nat.shiftLeft_eq]
  omega

/-- The integer the spec gives 16 bits is their two's-complement value (R10). -/
theorem toInt_eq_signed16 (u : Word) : u.toInt = signed16 u := by
  rw [BitVec.toInt_eq_toNat_cond, signed16]
  split_ifs <;> omega

/-- Settles O30: the field's bits are `b0 + 256 * b1`, which `signed16` reads as two's complement. -/
theorem leS16IsLittleEndianSigned : Obligations.LeS16IsLittleEndianSigned := fun b0 b1 =>
  ⟨by rw [signed16, toNat_leS16], toInt_eq_signed16 _⟩

/-! ### The answer by the payload's length -/

/-- The payloads DECODE_ATTITUDE fails: the short ones, and under `reject` the long ones (R172). -/
theorem attitudeStatus_eq_malformedReply_iff {long : AttLongInput} {L : Nat} :
    attitudeStatus long L = .malformedReply ↔ L < 12 ∨ (12 < L ∧ long = .reject) := by
  unfold attitudeStatus
  split_ifs <;> simp [*]

/-- The payloads DECODE_ATTITUDE decodes: those of 12 bytes, and the long ones where `reject` is not chosen (R172). -/
theorem attitudeStatus_eq_ok_iff {long : AttLongInput} {L : Nat} :
    attitudeStatus long L = .ok ↔ L = 12 ∨ (12 < L ∧ long = .firstTwelve) := by
  have hstatus : attitudeStatus long L = .ok ↔ ¬ attitudeStatus long L = .malformedReply := by
    cases attitudeStatus long L <;> decide
  rw [hstatus, attitudeStatus_eq_malformedReply_iff]
  cases long with
  | reject => simp
  | firstTwelve => simp; omega

/-- Field `j` has byte `2j` low and byte `2j + 1` high (R173). -/
theorem attitudeField_of_lt {data : Bytes} {j : Nat} (h : 2 * j + 1 < data.length) :
    attitudeField data j = some (data.getD (2 * j + 1) 0 ++ data.getD (2 * j) 0) := by
  have h0 : memRead data (2 * j) = some (data.getD (2 * j) 0) := by
    simp [memRead, List.getD_eq_getElem?_getD, show 2 * j < data.length by omega]
  have h1 : memRead data (2 * j + 1) = some (data.getD (2 * j + 1) 0) := by
    simp [memRead, List.getD_eq_getElem?_getD, h]
  simp only [attitudeField, h0, h1, leS16_eq_append]

/-- A payload of at least twelve bytes holds the Attitude of its first six fields (R172). -/
theorem attitudeIn_of_le {data : Bytes} (h : 12 ≤ data.length) :
    attitudeIn data = attitudeOf ((List.range 6).map fun j => data.getD (2 * j + 1) 0 ++ data.getD (2 * j) 0) := by
  refine attitudeIn_of_fields (by simp) ?_
  rw [List.length_map, List.length_range, List.map_map]
  refine List.map_congr_left fun j hj => attitudeField_of_lt ?_
  have hj := List.mem_range.mp hj
  omega

/-- Settles O31: the length decides the status, and a payload of status OK holds all six fields. -/
theorem decodeAttitudeByLength : Obligations.DecodeAttitudeByLength := by
  intro s data
  refine ⟨fun hfails => ?_, fun hdecodes => ?_⟩
  · exact exec_of_answer_ok (answerDecodeAttitude_of_malformed (attitudeStatus_eq_malformedReply_iff.mpr hfails))
  · have hok := attitudeStatus_eq_ok_iff.mpr hdecodes
    refine exec_of_answer_ok ?_
    simp only [answer, answerDecodeAttitude, hok, attitudeIn_of_le (twelve_le_of_attitudeStatus_ok hok)]
    rfl

/-! ### The replies a disciplined host decodes -/

/-- What every action a duty allows keeps, a disciplined run keeps. -/
theorem Session.run_induction {r : HostRules} {P : Session → Prop}
    (hact : ∀ {h g : Session} {a : HostAction}, P h → h.act r a = some g → P g) {actions : List HostAction} :
    ∀ {h g : Session}, P h → Session.run r h actions = some g → P g := by
  induction actions with
  | nil =>
    intro h g hP hrun
    cases hrun
    exact hP
  | cons a rest ih =>
    intro h g hP hrun
    obtain ⟨h', ha, hrest⟩ := Option.bind_eq_some_iff.mp hrun
    exact ih (hact hP ha) hrest

section Receive
variable (h : Session) (e : Exchange) (timeout : Nat)

/-- Bytes received end the exchange with its reply (R235). -/
theorem Session.receive_of_reply {result : ReceiveResult} {received : Bytes} (hr : result.outcome = .ok received) :
    h.receive e timeout result =
      { h with awaiting := [], ended := h.ended ++ [(e.command, .reply received)] } := by
  simp only [Session.receive, hr]

/-- An expired wait ends the exchange without confirmation (R213). -/
theorem Session.receive_of_timeout {result : ReceiveResult} (hr : result.outcome = .error .timeout) :
    h.receive e timeout result =
      { awaiting := [], ended := h.ended ++ [(e.command, .unconfirmed)],
        conditions := h.conditions ++ [(e.command, .timeout)] } := by
  simp only [Session.receive, hr]

/-- A failed receive leaves the exchange awaiting its reply (R235, log 27). -/
theorem Session.receive_of_transportError {result : ReceiveResult} (hr : result.outcome = .error .transportError) :
    h.receive e timeout result =
      { h with
        awaiting := [{ e with waited := e.waited + timeout }]
        conditions := h.conditions ++ [(e.command, .transportError)] } := by
  simp only [Session.receive, hr]

end Receive

/-- Only acknowledged commands await a reply, and every reply is some bytes received for such a command. -/
structure Session.RepliesToAcked (r : HostRules) (h : Session) : Prop where
  awaiting : ∀ e ∈ h.awaiting, r.acked e.command = true
  replies : ∀ c received, (c, ExchangeEnd.reply received) ∈ h.ended → received ≠ [] ∧ r.acked c = true

namespace Session.RepliesToAcked
variable {r : HostRules} {h : Session}

theorem start (r : HostRules) : Session.start.RepliesToAcked r where
  awaiting := by simp [Session.start]
  replies := by simp [Session.start]

theorem send (hh : h.RepliesToAcked r) (c : Instr) (result : SendResult) : (h.send r c result).RepliesToAcked r where
  awaiting := by
    rw [Session.send_awaiting]
    split
    · next hc =>
      intro e he
      rcases List.mem_append.mp he with he | he
      · exact hh.awaiting e he
      · rw [List.mem_singleton.mp he]
        exact hc
    · exact hh.awaiting
  replies := hh.replies

theorem receive (hh : h.RepliesToAcked r) {e : Exchange} (he : e ∈ h.awaiting) (timeout : Nat)
    (result : ReceiveResult) : (h.receive e timeout result).RepliesToAcked r := by
  have hacked := hh.awaiting e he
  rcases result.outcome_cases with ⟨received, hne, -, hr⟩ | ⟨-, hr⟩ | ⟨-, hr⟩
  · rw [Session.receive_of_reply h e timeout hr]
    refine ⟨by simp, fun c bytes hmem => ?_⟩
    rcases List.mem_append.mp hmem with hmem | hmem
    · exact hh.replies c bytes hmem
    · cases List.mem_singleton.mp hmem
      exact ⟨hne, hacked⟩
  · rw [Session.receive_of_timeout h e timeout hr]
    exact ⟨by simp, fun c bytes hmem => hh.replies c bytes (by simpa using hmem)⟩
  · rw [Session.receive_of_transportError h e timeout hr]
    exact ⟨by simpa using hacked, hh.replies⟩

theorem act {g : Session} {a : HostAction} (hh : h.RepliesToAcked r) (ha : h.act r a = some g) :
    g.RepliesToAcked r := by
  obtain ⟨-, ⟨i, -, rfl⟩ | ⟨c, result, -, rfl⟩ | ⟨timeout, result, e, -, he, rfl⟩⟩ := Session.act_some ha
  · exact hh
  · exact hh.send c result
  · exact hh.receive (by simp [he]) timeout result

theorem run {actions : List HostAction} (hrun : Session.run r Session.start actions = some h) : h.RepliesToAcked r :=
  Session.run_induction act (start r) hrun

end Session.RepliesToAcked

/-- The payloads a host has received are those of the replies that ended its exchanges (R212). -/
theorem Session.hasPayload_iff {r : HostRules} {h : Session} {data : Bytes} :
    h.hasPayload r data = true ↔
      ∃ c received, (c, ExchangeEnd.reply received) ∈ h.ended ∧ r.replyPayload received = data := by
  rw [Session.hasPayload, List.any_eq_true]
  constructor
  · rintro ⟨⟨c, _ | _⟩, hmem, hpayload⟩
    · exact ⟨c, _, hmem, eq_of_beq hpayload⟩
    · cases hpayload
  · rintro ⟨c, received, hmem, rfl⟩
    exact ⟨_, hmem, beq_self_eq_true _⟩

/-- Settles O55: the duty in issuing the request names a reply, and every reply of a disciplined run is one to an
acknowledged command. -/
theorem disciplinedHostDecodesReplyPayloads : Obligations.DisciplinedHostDecodesReplyPayloads := by
  intro r actions h g data hrun hact
  obtain ⟨hmay, -⟩ := Session.act_some hact
  obtain ⟨c, received, hmem, hpayload⟩ := Session.hasPayload_iff.mp hmay
  obtain ⟨hne, hacked⟩ := (Session.RepliesToAcked.run hrun).replies c received hmem
  exact ⟨c, received, hmem, hne, hacked, hpayload⟩

end Sys2Proof.Machine
end

section
/-! Which requests are refused and what an answered one carries, the exchanges a disciplined host awaits, and the statements of
60_exceptions.md settled with them: refusals (R206), responses (R203, R205), the transport's reports (R204), and the host's
duties in awaiting a reply (R212, R213, R235). -/

namespace Sys2Proof.Machine

/-! ### Operation code and tag of a selector -/

/-- No mask of the opcode table leaves out a bit of `op`. -/
theorem opcodeTable_mask_op : ∀ row ∈ opcodeTable, selectorOp row.mask = BitVec.allOnes 2 := by decide

/-- The mask of a row with `op` 1 leaves out no bit of the tag, and the row's own tag is at most 5. -/
theorem opcodeTable_mask_tag : ∀ row ∈ opcodeTable, selectorOp row.value = 1 →
    selectorTag row.mask = BitVec.allOnes 8 ∧ (selectorTag row.value).toNat < 6 := by decide

/-- No row has `op` 3 (R73). -/
theorem opcodeTable_op_ne_three : ∀ row ∈ opcodeTable, selectorOp row.value ≠ 3 := by decide

/-- A selector has the `op` of the row it matches. -/
theorem selectorOp_of_match {row : OpcodeRow} (hrow : row ∈ opcodeTable) {sel : BitVec 16}
    (hmatch : sel &&& row.mask = row.value) : selectorOp row.value = selectorOp sel := by
  rw [← hmatch, selectorOp, BitVec.extractLsb'_and]
  change selectorOp sel &&& selectorOp row.mask = selectorOp sel
  rw [opcodeTable_mask_op row hrow, BitVec.and_allOnes]

/-- A selector with `op` 1 has the tag of the row it matches. -/
theorem selectorTag_of_match {row : OpcodeRow} (hrow : row ∈ opcodeTable) {sel : BitVec 16}
    (hmatch : sel &&& row.mask = row.value) (hop : selectorOp sel = 1) : selectorTag row.value = selectorTag sel := by
  have hmask := (opcodeTable_mask_tag row hrow ((selectorOp_of_match hrow hmatch).trans hop)).1
  rw [← hmatch, selectorTag, BitVec.extractLsb'_and]
  change selectorTag sel &&& selectorTag row.mask = selectorTag sel
  rw [hmask, BitVec.and_allOnes]

/-- Its `op` and its tag fix a 10-bit selector (R70). -/
theorem eq_of_selectorOp_of_selectorTag {a b : BitVec 16} (ha : a &&& 0xFC00 = 0) (hb : b &&& 0xFC00 = 0)
    (hop : selectorOp a = selectorOp b) (htag : selectorTag a = selectorTag b) : a = b := by
  have hhigh {sel : BitVec 16} (h : sel &&& 0xFC00 = 0) : (sel.extractLsb' 10 6).toNat = 0 := by
    have hbits := congrArg (BitVec.extractLsb' 10 6) h
    rw [BitVec.extractLsb'_and] at hbits
    change sel.extractLsb' 10 6 &&& BitVec.allOnes 6 = 0 at hbits
    rw [BitVec.and_allOnes] at hbits
    rw [hbits]
    rfl
  have hhigha := hhigh ha
  have hhighb := hhigh hb
  have hop := congrArg BitVec.toNat hop
  have htag := congrArg BitVec.toNat htag
  simp only [selectorOp, selectorTag, BitVec.extractLsb'_toNat, Nat.shiftRight_eq_div_pow] at hhigha hhighb hop htag
  apply BitVec.eq_of_toNat_eq
  omega

/-! ### Reserved requests -/

/-- A selector with `op` 3 is reserved (R73). -/
theorem decode_of_op_three {r : Request} (hsel : r.sel &&& 0xFC00 = 0) (hop : selectorOp r.sel = 3) :
    decode r = .error .reservedOp := by
  refine decode_of_no_row hsel (fun row hrow hmatch => ?_) (if_pos hop) r.operands
  exact opcodeTable_op_ne_three row hrow ((selectorOp_of_match hrow hmatch).trans hop)

/-- A selector with `op` 1 and a tag of 6 or more is reserved (R73). -/
theorem decode_of_tag_ge_six {r : Request} (hsel : r.sel &&& 0xFC00 = 0) (hop : selectorOp r.sel = 1)
    (htag : 6 ≤ (selectorTag r.sel).toNat) : decode r = .error (.reservedCommandTag (selectorTag r.sel)) := by
  refine decode_of_no_row hsel (fun row hrow hmatch => ?_) (if_neg (by rw [hop]; decide)) r.operands
  have hlt := (opcodeTable_mask_tag row hrow ((selectorOp_of_match hrow hmatch).trans hop)).2
  rw [selectorTag_of_match hrow hmatch hop] at hlt
  omega

/-- A selector with `op` 1 and tag 0 is ENCODE of a fixed command (R70). -/
theorem decode_of_tag_zero {r : Request} (hsel : r.sel &&& 0xFC00 = 0) (hop : selectorOp r.sel = 1)
    (htag : selectorTag r.sel = 0) : decode r = .ok (.encodeFixed r.operands.k) := by
  obtain ⟨sel, o⟩ := r
  obtain rfl : sel = 0x100 := eq_of_selectorOp_of_selectorTag hsel (by decide) hop htag
  exact decode_value ⟨1, by decide⟩ o

/-- A request that is owed a refusal is refused at its acceptance (R207). -/
theorem launch_of_answer_error {s : State} {i : Instr} {e : Refusal} (h : answer s i = .error e) :
    launch s i = .refuse e := by
  rw [answer_eq_launch_answer] at h
  cases hlaunch : launch s i with
  | refuse e' => rw [hlaunch] at h; cases h; rfl
  | answered r => rw [hlaunch] at h; cases h
  | started work input acc => rw [hlaunch] at h; cases work <;> cases h

/-- So the byte-serial engine refuses it by the same name. -/
theorem State.accept_of_answer_error {s : State} {i : Instr} {e : Refusal} (h : answer s i = .error e) :
    s.accept i = .refused e := by
  simp only [accept, launch_of_answer_error h]

section NextRequest
variable {s : State} {r : Request} {rest : List HostEvent}

/-- Either level of the machine refuses a request that does not decode. -/
theorem step_of_decode_error (hevents : s.events = .request r :: rest ∨ s.events = .accept r :: rest) {e : DecodeError}
    (h : decode r = .error e) : step s = .refused (refusalOf e) := by
  rcases hevents with hrequest | haccept
  · rw [step_of_events_cons hrequest, runEvent_request_of_decode_error _ h]
  · rw [step_of_events_cons haccept, runEvent_accept_of_decode_error _ h]

/-- Either level of the machine refuses a request that is owed a refusal. -/
theorem step_of_answer_error (hevents : s.events = .request r :: rest ∨ s.events = .accept r :: rest) {i : Instr}
    (hdecode : decode r = .ok i) {e : Refusal} (h : answer { s with events := rest } i = .error e) :
    step s = .refused e := by
  rcases hevents with hrequest | haccept
  · rw [step_of_events_cons hrequest, runEvent_request_of_decode _ hdecode, exec_of_answer_error h]
  · rw [step_of_events_cons haccept, runEvent_accept_of_decode _ hdecode, State.accept_of_answer_error h]

end NextRequest

/-- Settles O4: no row matches a reserved selector, and `op` 1 with tag 0 decodes to the look-up of an ordinal. -/
theorem reservedRequestsGetNoResponse : Obligations.ReservedRequestsGetNoResponse := by
  intro s r rest hevents hsel
  refine ⟨fun hop => ?_, fun hop htag => ?_, fun hop htag hk => ?_⟩
  · exact step_of_decode_error hevents (decode_of_op_three hsel hop)
  · exact step_of_decode_error hevents (decode_of_tag_ge_six hsel hop htag)
  · exact step_of_answer_error hevents (decode_of_tag_zero hsel hop htag) (answerEncodeFixed_of_le hk)

/-! ### What a response carries -/

/-- `op` 0 is crc16 (R69). -/
theorem eq_crc16_of_op {i : Instr} (hop : i.opTag.1 = 0) : ∃ data init, i = .crc16 data init := by
  cases i with
  | crc16 data init => exact ⟨data, init, rfl⟩
  | _ => simp [Instr.opTag] at hop

/-- `op` 2 is decode_attitude (R69). -/
theorem eq_decodeAttitude_of_op {i : Instr} (hop : i.opTag.1 = 2) : ∃ data, i = .decodeAttitude data := by
  cases i with
  | decodeAttitude data => exact ⟨data, rfl⟩
  | _ => simp [Instr.opTag] at hop

/-- crc16 answers OK with a checksum, where it answers (R100). -/
theorem answerCrc16_ok {s : State} {data : Bytes} {init : Word} {r : Response} (h : answerCrc16 s data init = .ok r) :
    ∃ c, r = ⟨.ok, some (.checksum c)⟩ := by
  unfold answerCrc16 at h
  split at h <;> cases h
  exact ⟨_, rfl⟩

/-- ENCODE answers OK with a frame, where it answers (R139). -/
theorem answer_ok_of_encode {s : State} {i : Instr} (hop : i.opTag.1 = 1) {r : Response} (h : answer s i = .ok r) :
    ∃ f, r = ⟨.ok, some (.frame f)⟩ := by
  cases i with
  | crc16 data init => simp [Instr.opTag] at hop
  | encodeFixed k =>
    obtain ⟨e, -, rfl⟩ := answerEncodeFixed_ok_iff.mp h
    exact ⟨e, rfl⟩
  | encodeSetYawPitchSpeed yaw pitch => cases h; exact ⟨_, rfl⟩
  | encodeSetYawPitchAngle yaw pitch => cases h; exact ⟨_, rfl⟩
  | encodeSetUtcTime timestamp => cases h; exact ⟨_, rfl⟩
  | encodeGetCodecSpec stream => cases h; exact ⟨_, rfl⟩
  | encodeSetCodecSpec stream encType width height bitrate =>
    simp only [answer, answerSetCodecSpec] at h
    split at h <;> cases h
    exact ⟨_, rfl⟩
  | decodeAttitude data => simp [Instr.opTag] at hop

/-- DECODE_ATTITUDE answers OK with an Attitude, or MALFORMED_REPLY with no result (R172, R200). -/
theorem answerDecodeAttitude_cases {s : State} {data : Bytes} {r : Response} (h : answerDecodeAttitude s data = .ok r) :
    (∃ a, r = ⟨.ok, some (.attitude a)⟩) ∨ r = ⟨.malformedReply, none⟩ := by
  unfold answerDecodeAttitude at h
  split at h <;> cases h
  · exact .inl ⟨_, rfl⟩
  · exact .inr rfl

/-- Settles O32: what is delivered is the answer owed, of which each operation has its own shape. -/
theorem responseFitsItsOperation : Obligations.ResponseFitsItsOperation := by
  refine ⟨rfl, rfl, fun s t i hexec => ?_⟩
  obtain ⟨r, hr, rfl⟩ := exec_next hexec
  refine ⟨r, rfl, fun hop => ?_, fun hop => answer_ok_of_encode hop hr, fun hop => ?_⟩
  · obtain ⟨data, init, rfl⟩ := eq_crc16_of_op hop
    exact answerCrc16_ok hr
  · obtain ⟨data, rfl⟩ := eq_decodeAttitude_of_op hop
    exact answerDecodeAttitude_cases hr

/-! ### The transport's reports -/

/-- Settles O51: a count or a reply is a condition exactly where it is of zero bytes. -/
theorem transportReportsMeanTheirConditions : Obligations.TransportReportsMeanTheirConditions := by
  refine ⟨fun n => ?_, rfl, fun received => ?_, rfl, rfl⟩
  · cases n <;> rfl
  · cases received <;> rfl

/-! ### The exchanges a disciplined host awaits -/

/-- A send is permitted for an admitted command, an acknowledged one only while nothing is awaited (R212, R235). -/
theorem Session.permits_send_iff {r : HostRules} {h : Session} {c : Instr} {result : SendResult} :
    h.permits r (.send c result) = true ↔
      c.opTag.1 = 1 ∧ r.admitted c = true ∧ (r.acked c = true → h.awaiting = []) := by
  simp [Session.permits, and_assoc, imp_iff_not_or]

/-- An action that breaks a duty ends the run. -/
theorem Session.act_of_not_permits {r : HostRules} {h : Session} {a : HostAction} (hp : h.permits r a ≠ true) :
    h.act r a = none := if_neg hp

/-- A request changes nothing of the host's exchanges. -/
theorem Session.act_request_some {r : HostRules} {h g : Session} {i : Instr} (ha : h.act r (.request i) = some g) :
    g = h := by
  obtain ⟨-, ⟨_, -, hg⟩ | ⟨_, _, ⟨⟩, -⟩ | ⟨_, _, _, ⟨⟩, -⟩⟩ := Session.act_some ha
  exact hg

/-- Everything a send of a disciplined host can do: it was permitted, and the send took place. -/
theorem Session.act_send_some {r : HostRules} {h g : Session} {c : Instr} {result : SendResult}
    (ha : h.act r (.send c result) = some g) :
    (c.opTag.1 = 1 ∧ r.admitted c = true ∧ (r.acked c = true → h.awaiting = [])) ∧ g = h.send r c result := by
  obtain ⟨hp, ⟨_, ⟨⟩, -⟩ | ⟨_, _, ⟨⟩, hg⟩ | ⟨_, _, _, ⟨⟩, -⟩⟩ := Session.act_some ha
  exact ⟨Session.permits_send_iff.mp hp, hg⟩

/-- Everything a receive can leave awaited: nothing, or the same exchange with more of its time gone. -/
theorem Session.receive_awaiting (h : Session) (e : Exchange) (timeout : Nat) (result : ReceiveResult) :
    (h.receive e timeout result).awaiting = [] ∨
    (h.receive e timeout result).awaiting = [⟨e.command, e.waited + timeout⟩] := by
  rcases result.outcome_cases with ⟨received, -, -, hr⟩ | ⟨-, hr⟩ | ⟨-, hr⟩
  · exact .inl (by rw [Session.receive_of_reply h e timeout hr])
  · exact .inl (by rw [Session.receive_of_timeout h e timeout hr])
  · exact .inr (by rw [Session.receive_of_transportError h e timeout hr])

/-- Nothing is awaited, or one exchange of an admitted command that has been given no more than REPLY_TIMEOUT (R212). -/
def Session.AwaitsOneAtMost (r : HostRules) (h : Session) : Prop :=
  h.awaiting = [] ∨
    ∃ e, h.awaiting = [e] ∧ r.admitted e.command = true ∧ e.command.opTag.1 = 1 ∧ e.waited ≤ r.replyTimeout

namespace Session.AwaitsOneAtMost
variable {r : HostRules} {h g : Session}

theorem send (hh : h.AwaitsOneAtMost r) {c : Instr} {result : SendResult} (hop : c.opTag.1 = 1)
    (hadmitted : r.admitted c = true) (hidle : r.acked c = true → h.awaiting = []) :
    (h.send r c result).AwaitsOneAtMost r := by
  rw [AwaitsOneAtMost, Session.send_awaiting]
  split
  · next hacked => exact .inr ⟨⟨c, 0⟩, by rw [hidle hacked, List.nil_append], hadmitted, hop, Nat.zero_le _⟩
  · exact hh

theorem receive (hh : h.AwaitsOneAtMost r) {e : Exchange} (he : h.awaiting = [e]) {timeout : Nat}
    (hle : e.waited + timeout ≤ r.replyTimeout) (result : ReceiveResult) :
    (h.receive e timeout result).AwaitsOneAtMost r := by
  rcases h.receive_awaiting e timeout result with hnone | hsame
  · exact .inl hnone
  · obtain hempty | ⟨e', he', hadmitted, hop, -⟩ := hh
    · cases he.symm.trans hempty
    · cases he.symm.trans he'
      exact .inr ⟨_, hsame, hadmitted, hop, hle⟩

theorem act {a : HostAction} (hh : h.AwaitsOneAtMost r) (ha : h.act r a = some g) : g.AwaitsOneAtMost r := by
  obtain ⟨hp, ⟨i, -, rfl⟩ | ⟨c, result, rfl, rfl⟩ | ⟨timeout, result, e, rfl, he, rfl⟩⟩ := Session.act_some ha
  · exact hh
  · obtain ⟨hop, hadmitted, hidle⟩ := Session.permits_send_iff.mp hp
    exact hh.send hop hadmitted hidle
  · exact hh.receive he (by simpa [Session.permits, he] using hp) result

theorem run {actions : List HostAction} (hrun : Session.run r Session.start actions = some h) : h.AwaitsOneAtMost r :=
  Session.run_induction act (.inl rfl) hrun

end Session.AwaitsOneAtMost

/-- Settles O52: every action a duty allows keeps that at most one reply is awaited. -/
theorem disciplinedHostAwaitsOneReply : Obligations.DisciplinedHostAwaitsOneReply := by
  refine ⟨fun r actions h hrun => ?_, fun r h c result hbusy hacked => ?_⟩
  · obtain hnone | ⟨e, he, -⟩ := Session.AwaitsOneAtMost.run hrun
    · simp [hnone]
    · simp [he]
  · exact Session.act_of_not_permits fun hp => hbusy ((Session.permits_send_iff.mp hp).2.2 hacked)

/-- Settles O53: the awaited exchange was allowed when it started, and every receive of it was within the bound. -/
theorem disciplinedHostWaitsOnlyForAckedCommands : Obligations.DisciplinedHostWaitsOnlyForAckedCommands := by
  refine ⟨fun r actions h hrun e he => ?_, fun r h timeout result => ⟨fun hnone => ?_, fun e he hlate => ?_⟩⟩
  · have hacked := (Session.RepliesToAcked.run hrun).awaiting e he
    obtain hnone | ⟨e', he', hallowed⟩ := Session.AwaitsOneAtMost.run hrun
    · simp [hnone] at he
    · obtain rfl : e = e' := by simpa [he'] using he
      exact ⟨hacked, hallowed⟩
  · exact Session.act_of_not_permits (by simp [Session.permits, hnone])
  · rw [Session.act_receive he, if_neg (Nat.not_le_of_lt hlate)]

/-! ### How an exchange ends -/

/-- Settles O54: a permitted receive does what its report means, and nothing else may touch an awaited exchange. -/
theorem exchangeEndsAtReplyOrTimeout : Obligations.ExchangeEndsAtReplyOrTimeout := by
  intro r h e timeout he hle
  have hact (result : ReceiveResult) : h.act r (.receive timeout result) = some (h.receive e timeout result) := by
    rw [Session.act_receive he, if_pos hle]
  refine ⟨fun received hne => ⟨_, hact _, ?_⟩, ⟨_, hact _, rfl, rfl, rfl⟩, fun result hfailed => ⟨_, hact _, ?_⟩,
    fun g i hg => Session.act_request_some hg, fun g c result hg => ?_⟩
  · obtain ⟨b, bs, rfl⟩ := List.exists_cons_of_ne_nil hne
    exact ⟨rfl, rfl, rfl⟩
  · rcases hfailed with rfl | rfl <;> exact ⟨rfl, rfl, rfl⟩
  · obtain ⟨⟨-, -, hidle⟩, rfl⟩ := Session.act_send_some hg
    have hacked : ¬ r.acked c = true := fun hacked => by cases he.symm.trans (hidle hacked)
    exact ⟨by rw [Session.send_awaiting, if_neg hacked, he], rfl⟩

/-- Settles O57: an expired wait is one of the two ways an exchange ends, and a receive is no event of the block. -/
theorem expiredWaitIsSendWithoutConfirmation : Obligations.ExpiredWaitIsSendWithoutConfirmation := by
  intro r h e timeout he hle
  obtain ⟨-, ⟨g, hact, hawaiting, hended, -⟩, -⟩ := exchangeEndsAtReplyOrTimeout r h e timeout he hle
  exact ⟨⟨g, hact, hawaiting, hended⟩, rfl⟩

end Sys2Proof.Machine
end
